-- ==== Sys2Proof/Word.lean ====
section
/-! DEFINITION. The three data widths of the core (spec/00_scope.md R10): a byte is 8 bits, a word 32, a block 128.
A block and its 16-byte string are one datum, byte 0 the most significant. -/

namespace Sys2Proof

abbrev Byte := BitVec 8

abbrev Word := BitVec 32

abbrev Block := BitVec 128

end Sys2Proof
end

