-- ==== Sys2Proof/Syntax.lean ====
section
/-! DEFINITION. The syntax of a command: one constructor per row of spec/opcode_table.json (spec/30_encoding.md R62).
A command word carries one value, the algorithm code of NEW. The operand travels beside the word (R60, R65), so it stands
in the machine's state and not in the instruction. -/

namespace Sys2Proof

/-- The commands of spec/30_encoding.md R62, in the order of their `OP` codes. `new` carries the raw 3-bit `ALG` field, whose
code 7 is reserved (R63): `WellFormed` excludes it, and its meaning is the fault `ILLEGAL_COMMAND` (R161). -/
inductive Instr where
  | new (alg : BitVec 3)
  | setKey
  | setIv
  | encrypt
  | decrypt
  | free
  deriving DecidableEq, Repr

/-- The seven algorithms of spec/00_scope.md R4, in the order of their codes 0 to 6 (spec/30_encoding.md R63). -/
inductive Alg where
  | aes128Cbc
  | aes192Cbc
  | aes256Cbc
  | rijndaelCbc
  | aes128Ctr
  | aes192Ctr
  | aes256Ctr
  deriving DecidableEq, Repr

/-- The bulk mode of an algorithm (spec/10_state.md R20). -/
inductive Mode where
  | cbc
  | ctr
  deriving DecidableEq, Repr

end Sys2Proof
end

