-- ==== Sys2Proof/WellFormed.lean ====
section
/-! DEFINITION. Which terms of the syntax are commands the spec has (spec/30_encoding.md R63, R64, R67). -/

namespace Sys2Proof

/-- A command is well formed when its `ALG` field is a code of R63: 0 to 6 for `NEW`. The other five commands carry no field. -/
def WellFormed : Instr → Bool
  | .new alg => decide (alg.toNat ≤ 6)
  | .setKey => true
  | .setIv => true
  | .encrypt => true
  | .decrypt => true
  | .free => true

end Sys2Proof
end

