-- ==== Sys2Proof/Decode.lean ====
section
/-! DEFINITION. The command decoder and encoder (spec/30_encoding.md R61 to R67). -/

namespace Sys2Proof

/-- What the decoder answers: a command, or the one rejection of R67, by name. -/
inductive Decoded where
  | command (i : Instr)
  | illegalCommand
  deriving DecidableEq, Repr

/-- `OP`, bits 3:0 of the command word (R61). -/
def opField (w : Word) : BitVec 4 := w.extractLsb' 0 4

/-- `ALG`, bits 6:4 (R61). -/
def algField (w : Word) : BitVec 3 := w.extractLsb' 4 3

/-- `RSV`, bits 31:7 (R61). -/
def rsvField (w : Word) : BitVec 25 := w.extractLsb' 7 25

/-- A command other than `NEW` is legal only with `ALG = 0` (R64). -/
def plainCommand (alg : BitVec 3) (i : Instr) : Decoded :=
  if alg = 0#3 then .command i else .illegalCommand

/-- `decode` of R67, total on every 32-bit word. -/
def decode (w : Word) : Decoded :=
  if rsvField w ≠ 0#25 then .illegalCommand
  else match opField w with
    | 1#4 => if algField w = 7#3 then .illegalCommand else .command (.new (algField w))
    | 2#4 => plainCommand (algField w) .setKey
    | 3#4 => plainCommand (algField w) .setIv
    | 4#4 => plainCommand (algField w) .encrypt
    | 5#4 => plainCommand (algField w) .decrypt
    | 6#4 => plainCommand (algField w) .free
    | _ => .illegalCommand

/-- The command word of R61 from its three fields. -/
def commandWord (alg : BitVec 3) (op : BitVec 4) : Word := (0#25) ++ alg ++ op

/-- The encoder: the word of a command, from the codes of R62 and R63. -/
def encode : Instr → Word
  | .new alg => commandWord alg 1#4
  | .setKey => commandWord 0#3 2#4
  | .setIv => commandWord 0#3 3#4
  | .encrypt => commandWord 0#3 4#4
  | .decrypt => commandWord 0#3 5#4
  | .free => commandWord 0#3 6#4

/-- The command word of an opcode-table row: the low `nbits` bits of `w`, every bit above them 0. -/
def tableWord (nbits w : Nat) : Word := BitVec.ofNat 32 (w % 2 ^ nbits)

/-- The instruction the decoder reads from a table row's bits. A command is one 32-bit word (R70), so a row that has a bit
above bit 31 is no command. -/
def decodeTableWord (nbits w : Nat) : Option Instr :=
  if w % 2 ^ nbits < 2 ^ 32 then
    match decode (tableWord nbits w) with
    | .command i => some i
    | .illegalCommand => none
  else none

end Sys2Proof
end

