-- ==== Sys2Proof/Config.lean ====
section
/-! DEFINITION. The parameters a build fixes (spec/00_scope.md R8), and the values the spec leaves open.
The parameters are a field of State, so that every statement about all states holds for every build. -/

namespace Sys2Proof

/-- What a zero-length `ENCRYPT` or `DECRYPT` does (spec/00_scope.md R8, spec/90_conflicts.md C4). -/
inductive ZeroLenPolicy where
  | noop
  | reject
  deriving DecidableEq, Repr

/-- The OPEN parameters of spec/00_scope.md R8, fixed before reset and for a whole run (spec/70_reset_and_hazards.md R203).
`extraBlocks` codes `MAX_SPAN_BYTES` as 16 times one more than it, so that the bound is a positive multiple of 16 by
construction (decision D10). -/
structure Params where
  hwCompiled : Bool
  hwAvailable : Bool
  extraBlocks : Nat
  zeroLen : ZeroLenPolicy
  deriving DecidableEq, Repr

/-- `MAX_SPAN_BYTES` (spec/00_scope.md R8). -/
def Params.maxSpanBytes (p : Params) : Nat := 16 * (p.extraBlocks + 1)

/-- `HW_AVAILABLE` of the build that `State.reset` stands for: OPEN, no body (log entry 4). -/
opaque Config.hwAvailable : Bool

/-- The span bound of the build that `State.reset` stands for: OPEN, no body (log entry 4). -/
opaque Config.extraBlocks : Nat

/-- A free value of width `w`: nothing constrains it (log entry 6). `draw` is the counter of State, `slot` tells the values of
one draw apart. -/
opaque Config.freeBits (draw slot w : Nat) : BitVec w

/-- A free value of a scratch index, which the spec gives no width (log entry 6). -/
opaque Config.freeIndex (draw slot : Nat) : Nat

/-- The identity string of spec/00_scope.md R3. -/
def Config.identity : String :=
  "PUTTY-AES-CORE/AES128,AES192,AES256/CBC-ENC,CBC-DEC,SDCTR/IMPL=portable|hardware"

end Sys2Proof
end

