-- ==== Sys2Proof/Machine/State.lean ====
section
/-! DEFINITION. The machine's state as plain data: everything spec/10_state.md gives the core, the command interface of
spec/30_encoding.md, and the host's side of it. State.reset is spec/10_state.md R33. -/

namespace Sys2Proof.Machine

/-- The implementation tag `IMPL` (spec/10_state.md R19). -/
inductive Impl where
  | portable
  | hardware
  deriving DecidableEq, Repr

/-- The fault causes of spec/60_exceptions.md R181, in the order of their codes 0 to 9. Codes 10 to 15 are never produced. -/
inductive Cause where
  | none
  | illegalCommand
  | noContext
  | contextLive
  | badKeyLength
  | badIvLength
  | notKeyed
  | ivNotSet
  | badSpanLength
  | badOperandLength
  deriving DecidableEq, Repr

/-- Who issued a command: the one host agent that owns this core, or another agent (spec/20_memory.md R53). -/
inductive Agent where
  | host
  | other
  deriving DecidableEq, Repr

/-- The reset input (spec/70_reset_and_hazards.md R200). `duringCommand` is the assertion the spec puts outside the model (U4). -/
inductive ResetInput where
  | released
  | betweenCommands
  | duringCommand
  deriving DecidableEq, Repr

/-- A command the host issues: the triple of spec/30_encoding.md R60, its `L` being the operand's length, and its issuer. -/
structure Command where
  word : Word
  operand : List Byte
  agent : Agent
  deriving DecidableEq, Repr

/-- The core's answer to a command (spec/30_encoding.md R60, R66): the STATUS word, and whether the span's bytes came with it.
The bytes themselves stand in the span buffer, where the command left them in place. -/
structure Answer where
  status : Word
  withSpan : Bool
  deriving DecidableEq, Repr

/-- Four 32-bit columns (spec/42_round_engine.md R115). -/
structure Cols where
  c0 : Word
  c1 : Word
  c2 : Word
  c3 : Word
  deriving DecidableEq, Repr

/-- A schedule RAM: 60 words (spec/10_state.md R22, R23). -/
abbrev Schedule := Vector Word 60

/-- A schedule RAM of zeros. -/
def Schedule.zero : Schedule := Vector.replicate 60 0#32

/-- Bytes of a buffer by offset, in one canonical form: offsets strictly rising, no byte 0 listed. An unlisted offset reads 0. -/
abbrev Memory := List Host.Cell

/-- The scratch state of spec/10_state.md R30, with the round-key pointer `kp` of spec/42_round_engine.md R115. -/
structure Scratch where
  temp : Word
  rcon : Byte
  s : Cols
  n : Cols
  kp : Nat
  chain : Block
  cbuf : Block
  counter : Block
  k : Nat
  keyBuf : Vector Byte 32
  deriving DecidableEq, Repr

/-- Scratch state after reset and after FREE (spec/10_state.md R33, R35). -/
def Scratch.zero : Scratch where
  temp := 0#32
  rcon := 0#8
  s := ⟨0#32, 0#32, 0#32, 0#32⟩
  n := ⟨0#32, 0#32, 0#32, 0#32⟩
  kp := 0
  chain := 0#128
  cbuf := 0#128
  counter := 0#128
  k := 0
  keyBuf := Vector.replicate 32 0#8

/-- Why the machine has no further step. -/
inductive Fault where
  /-- Raised by `step` alone, on a core whose `FAULTED` is 1 and whose reset input is released: "In the model a faulted core has
  no further step" (spec/45_commands.md R168, spec/60_exceptions.md R185). Safe: the state before it holds the fault that a
  command took, with its cause. No meaning raises it. -/
  | coreFaulted (cause : Cause)
  deriving DecidableEq, Repr

/-- What the model gives no meaning. -/
inductive Refusal where
  /-- An instruction whose arm of `exec` has no meaning yet; no arm is left so. Safe. -/
  | notModelled (mnemonic : String)
  /-- Raised by `step` when the next command comes from an agent that does not own the core: "a model refuses a second agent
  issuing commands to the same instance, by name" (spec/20_memory.md R53). Safe. -/
  | secondAgent
  /-- Raised by `step` on a reset asserted while a command runs, which is outside the model
  (spec/70_reset_and_hazards.md R200, spec/93_implementation_defined.md U4). Safe. -/
  | resetDuringCommand
  deriving DecidableEq, Repr

end Sys2Proof.Machine

namespace Sys2Proof.Machine

/-- The state of one core and of its host's side of the command interface. INVENTORY.md lists each field with its rule. -/
structure State where
  /-- The build's parameters (spec/00_scope.md R8), fixed for a run. -/
  cfg : Params
  /-- The host's program (spec/10_state.md R14). -/
  prog : List Command
  /-- The host's command index (R14). -/
  pc : Nat
  /-- The reset input (spec/70_reset_and_hazards.md R200). -/
  resetIn : ResetInput
  /-- The operand or span buffer of the command on the interface (spec/20_memory.md R38, R39). -/
  mem : Memory
  /-- Its length `L` in bytes. -/
  len : Nat
  /-- The last answer the core gave (spec/45_commands.md R167). -/
  answer : Option Answer
  /-- `CTX_LIVE` (R16). -/
  ctxLive : Bool
  /-- `KEYED` (R17). -/
  keyed : Bool
  /-- `IV_VALID` (R18). -/
  ivValid : Bool
  /-- `IMPL` (R19). -/
  impl : Impl
  /-- `ALG` (R20). -/
  alg : Alg
  /-- `NR` (R21). -/
  nr : BitVec 5
  /-- `FWD[0..60]` (R22). -/
  fwd : Schedule
  /-- `INV[0..60]` (R23). -/
  inv : Schedule
  /-- `IV` (R24). -/
  iv : Block
  /-- `FAULTED` (R25). -/
  faulted : Bool
  /-- `FAULT_CAUSE` (R25). -/
  faultCause : Cause
  /-- Scratch state (R30). -/
  scratch : Scratch
  /-- The model's own: how many free draws have been taken (log entry 6). -/
  freeCtr : Nat
  deriving DecidableEq, Repr

/-- The machine of a build `p` right after hardware reset (R33), with no program placed by the host and no answer given yet. -/
def State.resetWith (p : Params) : State where
  cfg := p
  prog := []
  pc := 0
  resetIn := .released
  mem := []
  len := 0
  answer := none
  ctxLive := false
  keyed := false
  ivValid := false
  impl := .portable
  alg := .aes128Cbc
  nr := 0#5
  fwd := Schedule.zero
  inv := Schedule.zero
  iv := 0#128
  faulted := false
  faultCause := .none
  scratch := Scratch.zero
  freeCtr := 0

/-- The build that `State.reset` stands for: the spec's defaults where it gives one, an open constant where it gives none
(spec/00_scope.md R8; log entry 4). -/
def State.resetParams : Params where
  hwCompiled := true
  hwAvailable := Config.hwAvailable
  extraBlocks := Config.extraBlocks
  zeroLen := .noop

/-- The machine right after reset (spec/10_state.md R33). -/
def State.reset : State := State.resetWith State.resetParams

end Sys2Proof.Machine
end

