-- ==== Sys2Proof/Machine/Bits.lean ====
section
/-! DEFINITION. Byte order and the views of words and blocks (spec/00_scope.md R10, spec/20_memory.md R42 to R45). -/

namespace Sys2Proof.Machine

/-- `be_u32` (R10). -/
def beU32 (b0 b1 b2 b3 : Byte) : Word := b0 ++ b1 ++ b2 ++ b3

/-- Byte `k` of a word, byte 0 most significant (R10). -/
def wordByte (w : Word) (k : Nat) : Byte := w.extractLsb' (24 - 8 * k) 8

/-- `bytes_be` (R10). -/
def bytesBe (w : Word) : List Byte := [wordByte w 0, wordByte w 1, wordByte w 2, wordByte w 3]

/-- `rotl32` (R10). -/
def rotl32 (w : Word) (n : Nat) : Word := w.rotateLeft n

/-- `rotr32` (R10). -/
def rotr32 (w : Word) (n : Nat) : Word := w.rotateRight n

/-- Column `i` of four, the index taken modulo 4 (spec/42_round_engine.md R117). -/
def col (s : Cols) (i : Nat) : Word :=
  match i % 4 with
  | 0 => s.c0
  | 1 => s.c1
  | 2 => s.c2
  | _ => s.c3

/-- The word view of a block: `Xw[j]` (R10). -/
def blockWord (x : Block) (j : Nat) : Word := x.extractLsb' (96 - 32 * j) 32

/-- Byte `i` of a block, byte 0 most significant (R10). -/
def blockByte (x : Block) (i : Nat) : Byte := x.extractLsb' (120 - 8 * i) 8

/-- A block's four columns (spec/20_memory.md R42). -/
def colsOfBlock (x : Block) : Cols := ⟨blockWord x 0, blockWord x 1, blockWord x 2, blockWord x 3⟩

/-- The block of four columns, column 0 first (spec/20_memory.md R42). -/
def blockOfCols (s : Cols) : Block := s.c0 ++ s.c1 ++ s.c2 ++ s.c3

/-- The 16 bytes of a block in order (R10). -/
def bytesOfBlock (x : Block) : List Byte := (List.range 16).map (blockByte x)

/-- A byte appended below a number. -/
def pushByte (acc : Block) (b : Byte) : Block := acc <<< 8 ||| b.zeroExtend 128

/-- The block of a byte string, first byte most significant (R10); it reads 16 bytes. -/
def blockOfBytes (bs : List Byte) : Block :=
  (bs.take 16).foldl pushByte 0#128

end Sys2Proof.Machine
end

