-- ==== Sys2Proof/Machine/Tables.lean ====
section
/-! DEFINITION. Arithmetic in GF(2^8) and the ROMs (spec/40_tables.md). The S-boxes are held as their listings, the T-tables by
their construction rules (decision D32). -/

namespace Sys2Proof.Machine

/-- `xtime`, masked to 8 bits (R80, C1). -/
def xtime (x : Byte) : Byte := (x <<< 1) ^^^ (if x.getLsbD 7 then 0x1B#8 else 0#8)

/-- `xtime^i` (R81). -/
def xtimePow : Nat → Byte → Byte
  | 0, a => a
  | i + 1, a => xtime (xtimePow i a)

/-- The term of bit `i` of `b` in `gmul(a, b)` (R81). -/
def gmulTerm (a b : Byte) (i : Nat) : Byte := if b.getLsbD i then xtimePow i a else 0#8

/-- `gmul`, the product in GF(2^8) modulo 0x11B (R81). -/
def gmul (a b : Byte) : Byte :=
  gmulTerm a b 0 ^^^ gmulTerm a b 1 ^^^ gmulTerm a b 2 ^^^ gmulTerm a b 3 ^^^
    gmulTerm a b 4 ^^^ gmulTerm a b 5 ^^^ gmulTerm a b 6 ^^^ gmulTerm a b 7

/-- `MixColumn` (R82). -/
def mixColumn (w : Word) : Word :=
  let a0 := wordByte w 0
  let a1 := wordByte w 1
  let a2 := wordByte w 2
  let a3 := wordByte w 3
  beU32 (gmul 2#8 a0 ^^^ gmul 3#8 a1 ^^^ a2 ^^^ a3) (a0 ^^^ gmul 2#8 a1 ^^^ gmul 3#8 a2 ^^^ a3)
    (a0 ^^^ a1 ^^^ gmul 2#8 a2 ^^^ gmul 3#8 a3) (gmul 3#8 a0 ^^^ a1 ^^^ a2 ^^^ gmul 2#8 a3)

/-- `InvMixColumn` (R83). -/
def invMixColumn (w : Word) : Word :=
  let a0 := wordByte w 0
  let a1 := wordByte w 1
  let a2 := wordByte w 2
  let a3 := wordByte w 3
  beU32 (gmul 0x0E#8 a0 ^^^ gmul 0x0B#8 a1 ^^^ gmul 0x0D#8 a2 ^^^ gmul 0x09#8 a3)
    (gmul 0x09#8 a0 ^^^ gmul 0x0E#8 a1 ^^^ gmul 0x0B#8 a2 ^^^ gmul 0x0D#8 a3)
    (gmul 0x0D#8 a0 ^^^ gmul 0x09#8 a1 ^^^ gmul 0x0E#8 a2 ^^^ gmul 0x0B#8 a3)
    (gmul 0x0B#8 a0 ^^^ gmul 0x0D#8 a1 ^^^ gmul 0x09#8 a2 ^^^ gmul 0x0E#8 a3)

/-- The listing of `SBOX` (R84): 16 rows of 16 bytes, row = high nibble of the index, column = low nibble, column 0 most
significant. -/
def sboxRows : List Block :=
  [
   0x637c777bf26b6fc53001672bfed7ab76#128, 0xca82c97dfa5947f0add4a2af9ca472c0#128,
   0xb7fd9326363ff7cc34a5e5f171d83115#128, 0x04c723c31896059a071280e2eb27b275#128,
   0x09832c1a1b6e5aa0523bd6b329e32f84#128, 0x53d100ed20fcb15b6acbbe394a4c58cf#128,
   0xd0efaafb434d338545f9027f503c9fa8#128, 0x51a3408f929d38f5bcb6da2110fff3d2#128,
   0xcd0c13ec5f974417c4a77e3d645d1973#128, 0x60814fdc222a908846eeb814de5e0bdb#128,
   0xe0323a0a4906245cc2d3ac629195e479#128, 0xe7c8376d8dd54ea96c56f4ea657aae08#128,
   0xba78252e1ca6b4c6e8dd741f4bbd8b8a#128, 0x703eb5664803f60e613557b986c11d9e#128,
   0xe1f8981169d98e949b1e87e9ce5528df#128, 0x8ca1890dbfe6426841992d0fb054bb16#128]

/-- The listing of `SINV` (R86), laid out as `sboxRows`. -/
def sinvRows : List Block :=
  [
   0x52096ad53036a538bf40a39e81f3d7fb#128, 0x7ce339829b2fff87348e4344c4dee9cb#128,
   0x547b9432a6c2233dee4c950b42fac34e#128, 0x082ea16628d924b2765ba2496d8bd125#128,
   0x72f8f66486689816d4a45ccc5d65b692#128, 0x6c704850fdedb9da5e154657a78d9d84#128,
   0x90d8ab008cbcd30af7e45805b8b34506#128, 0xd02c1e8fca3f0f02c1afbd0301138a6b#128,
   0x3a9111414f67dcea97f2cfcef0b4e673#128, 0x96ac7422e7ad3585e2f937e81c75df6e#128,
   0x47f11a711d29c5896fb7620eaa18be1b#128, 0xfc563e4bc6d279209adbc0fe78cd5af4#128,
   0x1fdda8338807c731b11210592780ec5f#128, 0x60517fa919b54a0d2de57a9f93c99cef#128,
   0xa0e03b4dae2af5b0c8ebbb3c83539961#128, 0x172b047eba77d626e169146355210c7d#128]

/-- Entry `b` of an 8-bit ROM listed by rows. -/
def romByte (rows : List Block) (b : Byte) : Byte :=
  blockByte (rows.getD (b.toNat / 16) 0#128) (b.toNat % 16)

/-- The ROM `SBOX` (R84). -/
def sbox (b : Byte) : Byte := romByte sboxRows b

/-- The ROM `SINV` (R86). -/
def sinv (b : Byte) : Byte := romByte sinvRows b

/-- The ROM `E0` (R87). -/
def e0 (b : Byte) : Word := beU32 (gmul 2#8 (sbox b)) (sbox b) (sbox b) (gmul 3#8 (sbox b))

/-- The ROM `E1` (R88). -/
def e1 (b : Byte) : Word := rotr32 (e0 b) 8

/-- The ROM `E2` (R88). -/
def e2 (b : Byte) : Word := rotr32 (e0 b) 16

/-- The ROM `E3` (R88). -/
def e3 (b : Byte) : Word := rotr32 (e0 b) 24

/-- The ROM `D0` (R89). -/
def d0 (b : Byte) : Word := invMixColumn (beU32 (sinv b) 0#8 0#8 0#8)

/-- The ROM `D1` (R90). -/
def d1 (b : Byte) : Word := rotr32 (d0 b) 8

/-- The ROM `D2` (R90). -/
def d2 (b : Byte) : Word := rotr32 (d0 b) 16

/-- The ROM `D3` (R90). -/
def d3 (b : Byte) : Word := rotr32 (d0 b) 24

end Sys2Proof.Machine
end

