-- ==== Sys2Proof/Machine/KeySchedule.lean ====
section
/-! DEFINITION. The key schedule, forward and inverse (spec/41_key_schedule.md). -/

namespace Sys2Proof.Machine

/-- `RotWord` (R101). -/
def rotWord (t : Word) : Word := rotl32 t 8

/-- `SubWord` (R101). -/
def subWord (t : Word) : Word :=
  beU32 (sbox (wordByte t 0)) (sbox (wordByte t 1)) (sbox (wordByte t 2)) (sbox (wordByte t 3))

/-- Word `i` of a schedule RAM (spec/20_memory.md R41). -/
def schedWord (w : Schedule) (i : Nat) : Word := w.getD i 0#32

/-- Word `i` of the key: `be_u32(key[4i..4i+4])` (R102). -/
def keyWord (key : List Byte) (i : Nat) : Word :=
  beU32 (key.getD (4 * i) 0#8) (key.getD (4 * i + 1) 0#8) (key.getD (4 * i + 2) 0#8) (key.getD (4 * i + 3) 0#8)

/-- The word `temp` that step `i` of `KEY_EXPAND` adds (R102), from `FWD[i-1]` and the round constant. -/
def expandTemp (nk i : Nat) (prev : Word) (rcon : Byte) : Word :=
  if i % nk = 0 then subWord (rotWord prev) ^^^ (rcon.zeroExtend 32 <<< 24)
  else if 6 < nk ∧ i % nk = 4 then subWord prev
  else prev

/-- The round constant after step `i` (R102: it steps "after use"). -/
def expandRcon (nk i : Nat) (rcon : Byte) : Byte := if i % nk = 0 then xtime rcon else rcon

/-- Steps `i`, `i + 1`, ... of the loop of `KEY_EXPAND` (R102), `left` of them. -/
def keyExpandLoop (key : List Byte) (nk : Nat) : (left i : Nat) → Schedule → Byte → Schedule
  | 0, _, w, _ => w
  | left + 1, i, w, rcon =>
    if i < nk then keyExpandLoop key nk left (i + 1) (w.set! i (keyWord key i)) rcon
    else
      keyExpandLoop key nk left (i + 1)
        (w.set! i (schedWord w (i - nk) ^^^ expandTemp nk i (schedWord w (i - 1)) rcon)) (expandRcon nk i rcon)

/-- `KEY_EXPAND` (R102): the words `0` to `4 * (Nr + 1) - 1` with `Nr = Nk + 6`, the rest of the RAM zero (decision D9). -/
def keyExpand (key : List Byte) (nk : Nat) : Schedule :=
  keyExpandLoop key nk (4 * (nk + 7)) 0 Schedule.zero 1#8

/-- The transform of an inner word of the inverse schedule through `SBOX` and the D tables (R106). -/
def invWord (t : Word) : Word :=
  d0 (sbox (wordByte t 0)) ^^^ d1 (sbox (wordByte t 1)) ^^^ d2 (sbox (wordByte t 2)) ^^^ d3 (sbox (wordByte t 3))

/-- Word `i` of the inverse schedule (R106): round `i / 4`, column `i % 4`; zero past the last round key (decision D9). -/
def invExpandWord (fwd : Schedule) (nr i : Nat) : Word :=
  if i / 4 = 0 ∨ i / 4 = nr then schedWord fwd ((nr - i / 4) * 4 + i % 4)
  else if i / 4 < nr then invWord (schedWord fwd ((nr - i / 4) * 4 + i % 4))
  else 0#32

/-- `INV_EXPAND` (R106). -/
def invExpand (fwd : Schedule) (nr : Nat) : Schedule := Vector.ofFn fun i => invExpandWord fwd nr i.val

end Sys2Proof.Machine
end

