-- ==== Sys2Proof/Machine/RoundEngine.lean ====
section
/-! DEFINITION. The ECB round engine, portable path (spec/42_round_engine.md). -/

namespace Sys2Proof.Machine

/-- Column `i` of a full encryption round (R117). -/
def encRound (s : Cols) (i : Nat) : Word :=
  e0 (wordByte (col s i) 0) ^^^ e1 (wordByte (col s (i + 1)) 1) ^^^ e2 (wordByte (col s (i + 2)) 2) ^^^
    e3 (wordByte (col s (i + 3)) 3)

/-- Column `i` of the final encryption round (R118). -/
def encLast (s : Cols) (i : Nat) : Word :=
  ((sbox (wordByte (col s i) 0)).zeroExtend 32 <<< 24) ||| ((sbox (wordByte (col s (i + 1)) 1)).zeroExtend 32 <<< 16) |||
    ((sbox (wordByte (col s (i + 2)) 2)).zeroExtend 32 <<< 8) ||| (sbox (wordByte (col s (i + 3)) 3)).zeroExtend 32

/-- Column `i` of a full decryption round (R120). -/
def decRound (s : Cols) (i : Nat) : Word :=
  d0 (wordByte (col s i) 0) ^^^ d1 (wordByte (col s (i + 3)) 1) ^^^ d2 (wordByte (col s (i + 2)) 2) ^^^
    d3 (wordByte (col s (i + 1)) 3)

/-- Column `i` of the final decryption round (R121). -/
def decLast (s : Cols) (i : Nat) : Word :=
  ((sinv (wordByte (col s i) 0)).zeroExtend 32 <<< 24) ||| ((sinv (wordByte (col s (i + 3)) 1)).zeroExtend 32 <<< 16) |||
    ((sinv (wordByte (col s (i + 2)) 2)).zeroExtend 32 <<< 8) ||| (sinv (wordByte (col s (i + 1)) 3)).zeroExtend 32

/-- The round key at `kp`: the word group `kp` to `kp + 3` (R115). -/
def roundKey (w : Schedule) (kp : Nat) : Cols :=
  ⟨schedWord w kp, schedWord w (kp + 1), schedWord w (kp + 2), schedWord w (kp + 3)⟩

/-- AddRoundKey (spec/00_scope.md R13). -/
def addKey (s k : Cols) : Cols := ⟨s.c0 ^^^ k.c0, s.c1 ^^^ k.c1, s.c2 ^^^ k.c2, s.c3 ^^^ k.c3⟩

/-- The four columns a round computes, all from the same state: "then `s ← n`" (R115). -/
def colsOf (f : Cols → Nat → Word) (s : Cols) : Cols := ⟨f s 0, f s 1, f s 2, f s 3⟩

/-- `left` full rounds of `f` from round-key pointer `kp` (R116, R119). -/
def fullRounds (f : Cols → Nat → Word) (w : Schedule) : (left kp : Nat) → Cols → Cols
  | 0, _, s => s
  | left + 1, kp, s => fullRounds f w left (kp + 4) (addKey (colsOf f s) (roundKey w kp))

/-- A block through `nr - 1` rounds of `f` and one of `last`, under the schedule `w` (R116, R119). -/
def runEngine (f last : Cols → Nat → Word) (w : Schedule) (nr : Nat) (x : Block) : Block :=
  blockOfCols (addKey
    (colsOf last (fullRounds f w (nr - 1) 4 (addKey (colsOfBlock x) (roundKey w 0)))) (roundKey w (4 * nr)))

/-- `ECB_ENC` (R116). -/
def ecbEnc (fwd : Schedule) (nr : Nat) (x : Block) : Block := runEngine encRound encLast fwd nr x

/-- `ECB_DEC` (R119). -/
def ecbDec (inv : Schedule) (nr : Nat) (y : Block) : Block := runEngine decRound decLast inv nr y

end Sys2Proof.Machine
end

