-- ==== Sys2Proof/Machine/Hardware.lean ====
section
/-! DEFINITION. The hardware (AES instruction) path (spec/44_hardware_path.md): the primitives in the column-word view, and the
block rounds, inverse schedule and counter built from them. The spec gives no instruction sequence for the forward
expansion, only its result (R148), so that is the one of R102 on both paths. -/

namespace Sys2Proof.Machine

/-- `AESENC(st, rk)` (R155). -/
def aesEnc (st rk : Block) : Block :=
  blockOfCols (addKey (colsOf encRound (colsOfBlock st)) (colsOfBlock rk))

/-- `AESENCLAST(st, rk)` (R155). -/
def aesEncLast (st rk : Block) : Block :=
  blockOfCols (addKey (colsOf encLast (colsOfBlock st)) (colsOfBlock rk))

/-- `AESDEC(st, rk)` (R155). -/
def aesDec (st rk : Block) : Block :=
  blockOfCols (addKey (colsOf decRound (colsOfBlock st)) (colsOfBlock rk))

/-- `AESDECLAST(st, rk)` (R155). -/
def aesDecLast (st rk : Block) : Block :=
  blockOfCols (addKey (colsOf decLast (colsOfBlock st)) (colsOfBlock rk))

/-- `AESIMC(rk)` (R151, R155). -/
def aesImc (rk : Block) : Block :=
  blockOfCols ⟨invMixColumn (blockWord rk 0), invMixColumn (blockWord rk 1), invMixColumn (blockWord rk 2),
    invMixColumn (blockWord rk 3)⟩

/-- `AESKEYGENASSIST(X, imm8)` (R149). -/
def aesKeyGenAssist (x : Block) (imm : Byte) : Block :=
  let rc := imm.zeroExtend 32 <<< 24
  blockOfCols ⟨subWord (blockWord x 1), rotWord (subWord (blockWord x 1)) ^^^ rc, subWord (blockWord x 3),
    rotWord (subWord (blockWord x 3)) ^^^ rc⟩

/-- `FWDrow(r)` and `INVrow(r)`: row `r` of a schedule as 16 bytes (R152). -/
def schedRow (w : Schedule) (r : Nat) : Block := blockOfCols (roundKey w (4 * r))

/-- The round loop of `HW_ECB_ENC` and `HW_ECB_DEC` (R152): `left` rounds from round `r`. -/
def hwRounds (f : Block → Block → Block) (w : Schedule) : (left r : Nat) → Block → Block
  | 0, _, st => st
  | left + 1, r, st => hwRounds f w left (r + 1) (f st (schedRow w r))

/-- `HW_ECB_ENC` (R152). -/
def hwEcbEnc (fwd : Schedule) (nr : Nat) (x : Block) : Block :=
  aesEncLast (hwRounds aesEnc fwd (nr - 1) 1 (x ^^^ schedRow fwd 0)) (schedRow fwd nr)

/-- `HW_ECB_DEC` (R152). -/
def hwEcbDec (inv : Schedule) (nr : Nat) (y : Block) : Block :=
  aesDecLast (hwRounds aesDec inv (nr - 1) 1 (y ^^^ schedRow inv 0)) (schedRow inv nr)

/-- Row `r` of the inverse schedule on the hardware path (R151). -/
def hwInvRow (fwd : Schedule) (nr r : Nat) : Block :=
  if r = 0 ∨ r = nr then schedRow fwd (nr - r)
  else if r < nr then aesImc (schedRow fwd (nr - r))
  else 0#128

/-- The inverse schedule on the hardware path (R151), word by word; rows past the last are zero (decision D9). -/
def hwInvExpand (fwd : Schedule) (nr : Nat) : Schedule :=
  Vector.ofFn fun i => blockWord (hwInvRow fwd nr (i.val / 4)) (i.val % 4)

/-- `HW_CTR_INC` (R153). -/
def hwCtrInc (c : Block) : Block :=
  let lo : BitVec 64 := c.extractLsb' 0 64 + 1#64
  let m : BitVec 64 := if lo = 0#64 then 0xFFFFFFFFFFFFFFFF#64 else 0#64
  let hi : BitVec 64 := c.extractLsb' 64 64 - m
  hi ++ lo

end Sys2Proof.Machine
end

