-- ==== Sys2Proof/Machine/Flags.lean ====
section
/-! DEFINITION. The codes of the named fields, the STATUS word, and the checks a command makes before it changes anything
(spec/10_state.md R19 to R26, spec/30_encoding.md R63, spec/45_commands.md R160, spec/60_exceptions.md R181). -/

namespace Sys2Proof.Machine

/-- The `ALG` code of an algorithm (R63). -/
def algCode : Alg → BitVec 3
  | .aes128Cbc => 0#3
  | .aes192Cbc => 1#3
  | .aes256Cbc => 2#3
  | .rijndaelCbc => 3#3
  | .aes128Ctr => 4#3
  | .aes192Ctr => 5#3
  | .aes256Ctr => 6#3

/-- The algorithm of a code; code 7 is reserved (R63). -/
def algOfCode (c : BitVec 3) : Option Alg :=
  match c with
  | 0#3 => some .aes128Cbc
  | 1#3 => some .aes192Cbc
  | 2#3 => some .aes256Cbc
  | 3#3 => some .rijndaelCbc
  | 4#3 => some .aes128Ctr
  | 5#3 => some .aes192Ctr
  | 6#3 => some .aes256Ctr
  | _ => none

/-- The algorithm's external name (spec/00_scope.md R4). -/
def algName : Alg → String
  | .aes128Cbc => "aes128-cbc"
  | .aes192Cbc => "aes192-cbc"
  | .aes256Cbc => "aes256-cbc"
  | .rijndaelCbc => "rijndael-cbc@lysator.liu.se"
  | .aes128Ctr => "aes128-ctr"
  | .aes192Ctr => "aes192-ctr"
  | .aes256Ctr => "aes256-ctr"

/-- `KEY_BYTES(ALG)` (R20). -/
def keyBytes : Alg → Nat
  | .aes128Cbc => 16
  | .aes192Cbc => 24
  | .aes256Cbc => 32
  | .rijndaelCbc => 32
  | .aes128Ctr => 16
  | .aes192Ctr => 24
  | .aes256Ctr => 32

/-- `MODE(ALG)` (R20). -/
def modeOf : Alg → Mode
  | .aes128Cbc => .cbc
  | .aes192Cbc => .cbc
  | .aes256Cbc => .cbc
  | .rijndaelCbc => .cbc
  | .aes128Ctr => .ctr
  | .aes192Ctr => .ctr
  | .aes256Ctr => .ctr

/-- The fault cause codes (R181). -/
def causeCode : Cause → BitVec 4
  | .none => 0#4
  | .illegalCommand => 1#4
  | .noContext => 2#4
  | .contextLive => 3#4
  | .badKeyLength => 4#4
  | .badIvLength => 5#4
  | .notKeyed => 6#4
  | .ivNotSet => 7#4
  | .badSpanLength => 8#4
  | .badOperandLength => 9#4

/-- The `IMPL` bit: 0 portable, 1 hardware (R19). -/
def implBit : Impl → BitVec 1
  | .portable => 0#1
  | .hardware => 1#1

/-- The path `NEW` selects: hardware if and only if `HW_COMPILED` and `HW_AVAILABLE` (spec/00_scope.md R9). -/
def selectImpl (p : Params) : Impl := if p.hwCompiled && p.hwAvailable then .hardware else .portable

/-- The `STATUS` word, field by field from bit 31 down (R26). The host may read it between any two commands and while the core
is faulted (R27). -/
def statusWord (s : State) : Word :=
  0#11 ++ s.nr ++ causeCode s.faultCause ++ 0#1 ++ algCode s.alg ++ 0#3 ++ BitVec.ofBool s.faulted ++ implBit s.impl ++
    BitVec.ofBool s.ivValid ++ BitVec.ofBool s.keyed ++ BitVec.ofBool s.ctxLive

/-- The checks of `NEW`, in the order of R160. A code 7 is an illegal command (R67). -/
def checkNew (code : BitVec 3) (s : State) : Option Cause :=
  if algOfCode code = none then some .illegalCommand
  else if s.ctxLive then some .contextLive
  else if s.len ≠ 0 then some .badOperandLength
  else none

/-- The checks of `SET_KEY` (R160). -/
def checkSetKey (s : State) : Option Cause :=
  if !s.ctxLive then some .noContext
  else if s.len ≠ keyBytes s.alg then some .badKeyLength
  else none

/-- The checks of `SET_IV` (R160). -/
def checkSetIv (s : State) : Option Cause :=
  if !s.ctxLive then some .noContext
  else if s.len ≠ 16 then some .badIvLength
  else none

/-- A span length R160 rejects. -/
def badSpan (p : Params) (len : Nat) : Bool :=
  decide (len % 16 ≠ 0) || decide (p.maxSpanBytes < len) || (decide (len = 0) && decide (p.zeroLen = .reject))

/-- The checks of `ENCRYPT` and `DECRYPT` (R160). -/
def checkBlock (s : State) : Option Cause :=
  if !s.ctxLive then some .noContext
  else if !s.keyed then some .notKeyed
  else if !s.ivValid then some .ivNotSet
  else if badSpan s.cfg s.len then some .badSpanLength
  else none

/-- The checks of `FREE` (R160). -/
def checkFree (s : State) : Option Cause :=
  if !s.ctxLive then some .noContext
  else if s.len ≠ 0 then some .badOperandLength
  else none

end Sys2Proof.Machine
end

