-- ==== Sys2Proof/Machine/Ops.lean ====
section
/-! DEFINITION. The shared operations: the buffer's bytes, taking a fault, completing a command, the faulted core, hardware
reset, and taking the next command from the host. -/

namespace Sys2Proof.Machine

/-- The byte at an offset; an unlisted offset reads 0. -/
def Memory.read : Memory → Nat → Byte
  | [], _ => 0#8
  | (a, b) :: m, x => if a = x then b else Memory.read m x

/-- Writes one byte and keeps the canonical form: writing 0 removes the entry. -/
def Memory.write : Memory → Nat → Byte → Memory
  | [], x, v => if v = 0#8 then [] else [(x, v)]
  | (a, b) :: m, x, v =>
    if x < a then (if v = 0#8 then (a, b) :: m else (x, v) :: (a, b) :: m)
    else if a = x then (if v = 0#8 then m else (x, v) :: m)
    else (a, b) :: Memory.write m x v

/-- `MemRead(a, n)` (spec/20_memory.md R38). -/
def Memory.readBytes (m : Memory) (a n : Nat) : List Byte := (List.range n).map fun i => Memory.read m (a + i)

/-- `MemWrite(a, n, v)` for the bytes `v` (spec/20_memory.md R38). -/
def Memory.writeBytes (m : Memory) (a : Nat) : List Byte → Memory
  | [] => m
  | b :: bs => Memory.writeBytes (Memory.write m a b) (a + 1) bs

/-- The buffer that holds a byte string from offset 0. -/
def Memory.ofBytes (bs : List Byte) : Memory := Memory.writeBytes [] 0 bs

/-- Canonical form above an offset: strictly rising, no byte 0 listed. -/
def Memory.wfFrom (lo : Nat) : Memory → Bool
  | [] => true
  | (a, b) :: m => decide (lo ≤ a) && decide (b ≠ 0#8) && Memory.wfFrom (a + 1) m

/-- The canonical form of a memory. -/
def Memory.wf (m : Memory) : Bool := Memory.wfFrom 0 m

/-- No entry at or above an offset. -/
def Memory.below (hi : Nat) (m : Memory) : Bool := m.all fun c => decide (c.1 < hi)

/-- The byte of the buffer at offset `a`; an offset at or above `L` does not exist (spec/20_memory.md R38). -/
def spanByte (s : State) (a : Nat) : Option Byte := if a < s.len then some (Memory.read s.mem a) else none

/-- All `L` bytes of the buffer, in order. -/
def bufferBytes (s : State) : List Byte := Memory.readBytes s.mem 0 s.len

/-- The bytes an answer carries: the span in place, or none (spec/30_encoding.md R66). -/
def answerBytes (s : State) : List Byte :=
  match s.answer with
  | some a => if a.withSpan then bufferBytes s else []
  | none => []

/-- The answer to a command: `STATUS` as the command left it (spec/45_commands.md R167). -/
def answerWith (withSpan : Bool) (s : State) : State := { s with answer := some ⟨statusWord s, withSpan⟩ }

/-- TAKING A FAULT (spec/60_exceptions.md R180, R184): `FAULTED` and `FAULT_CAUSE` are written and nothing else of the core
changes; the command index stays. The answer is `STATUS` only (spec/30_encoding.md R66). -/
def raiseFault (c : Cause) (s : State) : State := answerWith false { s with faulted := true, faultCause := c }

/-- A command given to a faulted core (spec/45_commands.md R168): no state changes, the answer is `STATUS`. -/
def ignoreCommand (s : State) : State := answerWith false s

/-- A command that completes (spec/45_commands.md R160, R167): the command index advances, the scratch state becomes `sc`, and
the answer is `STATUS`, with the span for the block commands. -/
def complete (sc : Scratch) (withSpan : Bool) (s : State) : State :=
  answerWith withSpan { s with pc := s.pc + 1, scratch := sc, freeCtr := s.freeCtr + 1 }

/-- Scratch state between commands: unspecified (spec/10_state.md R31), so free values (log entry 6). -/
def freeScratch (draw : Nat) : Scratch where
  temp := Config.freeBits draw 0 32
  rcon := Config.freeBits draw 1 8
  s := ⟨Config.freeBits draw 2 32, Config.freeBits draw 3 32, Config.freeBits draw 4 32, Config.freeBits draw 5 32⟩
  n := ⟨Config.freeBits draw 6 32, Config.freeBits draw 7 32, Config.freeBits draw 8 32, Config.freeBits draw 9 32⟩
  kp := Config.freeIndex draw 10
  chain := Config.freeBits draw 11 128
  cbuf := Config.freeBits draw 12 128
  counter := Config.freeBits draw 13 128
  k := Config.freeIndex draw 14
  keyBuf := Vector.ofFn fun i : Fin 32 => Config.freeBits draw (15 + i.val) 8

/-- Every command's frame (spec/45_commands.md R160): a faulted core ignores it; else the first failing check takes its fault;
else `done`, the state the command's own rule leaves. -/
def guarded (check : Option Cause) (done s : State) : Host.Outcome State Fault Refusal :=
  if s.faulted then .next (ignoreCommand s)
  else match check with
    | some c => .next (raiseFault c s)
    | none => .next done

/-- HARDWARE RESET (spec/70_reset_and_hazards.md R200): every field of the core takes its value of spec/10_state.md R33. The
build's parameters, the host's program and its buffer are not the core's; the assertion is used up and no answer stands
(log entries 3, 8). -/
def hardwareReset (s : State) : State :=
  { State.resetWith s.cfg with prog := s.prog, mem := s.mem, len := s.len, freeCtr := s.freeCtr }

/-- The next command the host issues, if the program has one (spec/10_state.md R14). -/
def nextCommand (s : State) : Option Command := s.prog[s.pc]?

/-- A command arrives with its operand (spec/30_encoding.md R60): its bytes stand in the buffer, from offset 0. -/
def placeOperand (c : Command) (s : State) : State :=
  { s with mem := Memory.ofBytes c.operand, len := c.operand.length }

/-- The core between commands, when the host has none to issue: it holds its state (spec/60_exceptions.md R195). -/
def waitForCommand (s : State) : Host.Outcome State Fault Refusal := .next s

/-- A faulted core has no further step (spec/45_commands.md R168, spec/60_exceptions.md R185). -/
def noFurtherStep (s : State) : Host.Outcome State Fault Refusal := .fault (.coreFaulted s.faultCause)

/-- The program with `c` at index `i`, padded with `c` where the program is shorter. -/
def progWith (prog : List Command) (i : Nat) (c : Command) : List Command :=
  (prog ++ List.replicate (i + 1 - prog.length) c).set i c

end Sys2Proof.Machine
end

