-- ==== Sys2Proof/Machine/Operands.lean ====
section
/-! DEFINITION. The operand forms of a command (spec/20_memory.md R38, R39, R42; spec/30_encoding.md R65): the key's bytes, the
IV's 16 bytes, and the 16-byte blocks of the span, read and written in place. -/

namespace Sys2Proof.Machine

/-- `SpanRead(k)`: block `k` of the span (spec/00_scope.md R11). -/
def spanRead (m : Memory) (k : Nat) : Block := blockOfBytes (Memory.readBytes m (16 * k) 16)

/-- `SpanWrite(k, v)` (spec/00_scope.md R11). -/
def spanWrite (m : Memory) (k : Nat) (v : Block) : Memory := Memory.writeBytes m (16 * k) (bytesOfBlock v)

/-- The key operand: all `L` bytes, in ascending order (R39). -/
def keyOperand (s : State) : List Byte := bufferBytes s

/-- The IV operand: its 16 bytes as one 128-bit value, byte 0 most significant (spec/10_state.md R24). -/
def ivOperand (s : State) : Block := blockOfBytes (Memory.readBytes s.mem 0 16)

/-- The number of 16-byte blocks of the span (R38). -/
def spanBlocks (s : State) : Nat := s.len / 16

end Sys2Proof.Machine
end

