-- ==== Sys2Proof/Machine/Modes.lean ====
section
/-! DEFINITION. The mode state machines (spec/43_modes.md), over the path the context's `IMPL` selects
(spec/44_hardware_path.md R145, R146). -/

namespace Sys2Proof.Machine

/-- One block encrypted on the selected path. -/
def blockEnc (p : Impl) (fwd : Schedule) (nr : Nat) (x : Block) : Block :=
  match p with
  | .portable => ecbEnc fwd nr x
  | .hardware => hwEcbEnc fwd nr x

/-- One block decrypted on the selected path. -/
def blockDec (p : Impl) (inv : Schedule) (nr : Nat) (y : Block) : Block :=
  match p with
  | .portable => ecbDec inv nr y
  | .hardware => hwEcbDec inv nr y

/-- `CTR_INC` (R135): plus one modulo 2^128. -/
def ctrInc (c : Block) : Block := c + 1#128

/-- The counter increment on the selected path. -/
def pathCtrInc (p : Impl) (c : Block) : Block :=
  match p with
  | .portable => ctrInc c
  | .hardware => hwCtrInc c

/-- The inverse schedule on the selected path. -/
def pathInvExpand (p : Impl) (fwd : Schedule) (nr : Nat) : Schedule :=
  match p with
  | .portable => invExpand fwd nr
  | .hardware => hwInvExpand fwd nr

/-- The loop of `CBC_ENC` (R131) over `left` blocks from block `k`; answers the span and the final chain. -/
def cbcEncLoop (enc : Block → Block) : (left k : Nat) → Memory → Block → Memory × Block
  | 0, _, m, chain => (m, chain)
  | left + 1, k, m, chain =>
    let c := enc (spanRead m k ^^^ chain)
    cbcEncLoop enc left (k + 1) (spanWrite m k c) c

/-- The loop of `CBC_DEC` (R132): the ciphertext block is held in `cbuf` before its slot is written (R133). -/
def cbcDecLoop (dec : Block → Block) : (left k : Nat) → Memory → Block → Memory × Block
  | 0, _, m, chain => (m, chain)
  | left + 1, k, m, chain =>
    let cbuf := spanRead m k
    cbcDecLoop dec left (k + 1) (spanWrite m k (dec cbuf ^^^ chain)) cbuf

/-- The loop of `CTR` (R134); answers the span and the next unused counter. -/
def ctrLoop (enc inc : Block → Block) : (left k : Nat) → Memory → Block → Memory × Block
  | 0, _, m, counter => (m, counter)
  | left + 1, k, m, counter =>
    ctrLoop enc inc left (k + 1) (spanWrite m k (spanRead m k ^^^ enc counter)) (inc counter)

/-- A mode machine's result written back: the span in place and `IV` at the end of the command (R130, R137). -/
def writeSpan (r : Memory × Block) (s : State) : State := { s with mem := r.1, iv := r.2 }

/-- `CBC_ENC` (R131). -/
def cbcEnc (s : State) : State :=
  writeSpan (cbcEncLoop (blockEnc s.impl s.fwd s.nr.toNat) (spanBlocks s) 0 s.mem s.iv) s

/-- `CBC_DEC` (R132). -/
def cbcDec (s : State) : State :=
  writeSpan (cbcDecLoop (blockDec s.impl s.inv s.nr.toNat) (spanBlocks s) 0 s.mem s.iv) s

/-- `CTR` (R134). -/
def ctrCrypt (s : State) : State :=
  writeSpan (ctrLoop (blockEnc s.impl s.fwd s.nr.toNat) (pathCtrInc s.impl) (spanBlocks s) 0 s.mem s.iv) s

end Sys2Proof.Machine
end

