-- ==== Sys2Proof/Machine/Cipher.lean ====
section
/-! DEFINITION. The meanings of ENCRYPT and DECRYPT (spec/45_commands.md R164, R165). -/

namespace Sys2Proof.Machine

/-- The mode machine `ENCRYPT` runs (R164). -/
def encryptSpan (s : State) : State :=
  match modeOf s.alg with
  | .cbc => cbcEnc s
  | .ctr => ctrCrypt s

/-- `ENCRYPT` (R164). -/
def execEncrypt (s : State) : Host.Outcome State Fault Refusal :=
  guarded (checkBlock s) (complete (freeScratch s.freeCtr) true (encryptSpan s)) s

/-- The mode machine `DECRYPT` runs (R165); for a CTR context it is that of `ENCRYPT` (spec/43_modes.md R136). -/
def decryptSpan (s : State) : State :=
  match modeOf s.alg with
  | .cbc => cbcDec s
  | .ctr => ctrCrypt s

/-- `DECRYPT` (R165). -/
def execDecrypt (s : State) : Host.Outcome State Fault Refusal :=
  guarded (checkBlock s) (complete (freeScratch s.freeCtr) true (decryptSpan s)) s

end Sys2Proof.Machine
end

