-- ==== Sys2Proof/Machine/Lifecycle.lean ====
section
/-! DEFINITION. The meanings of NEW and FREE (spec/45_commands.md R161, R166). -/

namespace Sys2Proof.Machine

/-- What `NEW` writes (R161). `FWD`, `INV` and `IV` are not written (spec/10_state.md R34). -/
def createContext (a : Alg) (s : State) : State :=
  { s with ctxLive := true, alg := a, impl := selectImpl s.cfg, keyed := false, ivValid := false, nr := 0#5 }

/-- `NEW` (R161). The code is an algorithm's once the checks pass. -/
def execNew (code : BitVec 3) (s : State) : Host.Outcome State Fault Refusal :=
  guarded (checkNew code s)
    (complete (freeScratch s.freeCtr) false (createContext ((algOfCode code).getD .aes128Cbc) s)) s

/-- What `FREE` writes: every storage element of the context, to zero (R166, spec/10_state.md R35). -/
def wipeContext (s : State) : State :=
  { s with fwd := Schedule.zero, inv := Schedule.zero, iv := 0#128, nr := 0#5, alg := .aes128Cbc, impl := .portable,
           keyed := false, ivValid := false, ctxLive := false }

/-- `FREE` (R166). -/
def execFree (s : State) : Host.Outcome State Fault Refusal :=
  guarded (checkFree s) (complete Scratch.zero false (wipeContext s)) s

end Sys2Proof.Machine
end

