-- ==== Sys2Proof/Machine/Setup.lean ====
section
/-! DEFINITION. The meanings of SET_KEY and SET_IV (spec/45_commands.md R162, R163). -/

namespace Sys2Proof.Machine

/-- What `SET_KEY` writes (R162): both schedules whole, `NR` and `KEYED`, from the key and `Nk`. -/
def installKey (key : List Byte) (nk : Nat) (s : State) : State :=
  { s with fwd := keyExpand key nk, inv := pathInvExpand s.impl (keyExpand key nk) (nk + 6),
           nr := BitVec.ofNat 5 (nk + 6), keyed := true }

/-- `SET_KEY` (R162): `Nk = L / 4`. The key copy `KEYBUF` is zero when the command completes (decision D27). -/
def execSetKey (s : State) : Host.Outcome State Fault Refusal :=
  guarded (checkSetKey s)
    (complete { freeScratch s.freeCtr with keyBuf := Vector.replicate 32 0#8 } false
      (installKey (keyOperand s) (s.len / 4) s)) s

/-- What `SET_IV` writes (R163). -/
def installIv (v : Block) (s : State) : State := { s with iv := v, ivValid := true }

/-- `SET_IV` (R163). -/
def execSetIv (s : State) : Host.Outcome State Fault Refusal :=
  guarded (checkSetIv s) (complete (freeScratch s.freeCtr) false (installIv (ivOperand s) s)) s

end Sys2Proof.Machine
end

