-- ==== Sys2Proof/Machine/Dispatch.lean ====
section
/-! DEFINITION. One arm per command (spec/45_commands.md R160 to R166). -/

namespace Sys2Proof.Machine

def exec (i : Instr) (s : State) : Host.Outcome State Fault Refusal :=
  match i with
  | .new alg => Sys2Proof.Machine.execNew alg s
  | .setKey => Sys2Proof.Machine.execSetKey s
  | .setIv => Sys2Proof.Machine.execSetIv s
  | .encrypt => Sys2Proof.Machine.execEncrypt s
  | .decrypt => Sys2Proof.Machine.execDecrypt s
  | .free => Sys2Proof.Machine.execFree s

end Sys2Proof.Machine
end

