-- ==== Sys2Proof/Machine/Step.lean ====
section
/-! DEFINITION. One step: one whole command taken from the host (spec/00_scope.md R7), or one reset. -/

namespace Sys2Proof.Machine

/-- The core takes a command (spec/45_commands.md R160): the operand arrives, the word is decoded, and the command runs or takes
the fault `ILLEGAL_COMMAND`. A second agent's command is refused (spec/20_memory.md R53). -/
def takeCommand (c : Command) (s : State) : Host.Outcome State Fault Refusal :=
  match c.agent with
  | .other => .refused .secondAgent
  | .host =>
    match decode c.word with
    | .illegalCommand => .next (raiseFault .illegalCommand (placeOperand c s))
    | .command i => exec i (placeOperand c s)

/-- One step of the machine. The reset input comes first, since reset is the only way out of a fault
(spec/70_reset_and_hazards.md R200). -/
def step (s : State) : Host.Outcome State Fault Refusal :=
  match s.resetIn with
  | .duringCommand => .refused .resetDuringCommand
  | .betweenCommands => .next (hardwareReset s)
  | .released =>
    if s.faulted then noFurtherStep s
    else
      match nextCommand s with
      | none => waitForCommand s
      | some c => takeCommand c s

/-- The state in which the host issues the command word of a table row next, with an empty operand: the word stands at the
command index of the program, and the reset input, which a step reads first, is released. -/
def State.withFetchWord (s : State) (nbits w : Nat) : State :=
  { s with prog := progWith s.prog s.pc ⟨tableWord nbits w, [], .host⟩, resetIn := .released }

end Sys2Proof.Machine
end

