-- ==== Sys2Proof/Machine/Assembler.lean ====
section
/-! DEFINITION. The assembler of spec/30_encoding.md R71 and its pseudo-instructions (R72 to R74): a line of text gives the
commands the host issues. It is the host's tool; no step of the machine reads it. -/

namespace Sys2Proof.Machine

/-- A line of a host program: the seven forms of R71 and the three pseudo-instructions. -/
inductive AsmLine where
  | new (a : Alg)
  | setKey (key : List Byte)
  | setIv (iv : List Byte)
  | encrypt (span : List Byte)
  | decrypt (span : List Byte)
  | free
  | raw (word : Word) (operand : List Byte)
  | ecbEncrypt (a : Alg) (key block : List Byte)
  | ecbDecrypt (a : Alg) (key block : List Byte)
  | crypt (span : List Byte)
  deriving DecidableEq, Repr

/-- The host's command for an instruction and its operand. -/
def hostCommand (i : Instr) (operand : List Byte) : Command := ⟨encode i, operand, .host⟩

/-- The commands of a line (R71). `ECB_ENCRYPT` and `ECB_DECRYPT` are CBC with a zero IV and one block (R72, R73); `CRYPT` is
`ENCRYPT` (R74). -/
def assembleLine : AsmLine → List Command
  | .new a => [hostCommand (.new (algCode a)) []]
  | .setKey key => [hostCommand .setKey key]
  | .setIv iv => [hostCommand .setIv iv]
  | .encrypt span => [hostCommand .encrypt span]
  | .decrypt span => [hostCommand .decrypt span]
  | .free => [hostCommand .free []]
  | .raw word operand => [⟨word, operand, .host⟩]
  | .ecbEncrypt a key block =>
    [hostCommand (.new (algCode a)) [], hostCommand .setKey key, hostCommand .setIv (List.replicate 16 0#8),
      hostCommand .encrypt block, hostCommand .free []]
  | .ecbDecrypt a key block =>
    [hostCommand (.new (algCode a)) [], hostCommand .setKey key, hostCommand .setIv (List.replicate 16 0#8),
      hostCommand .decrypt block, hostCommand .free []]
  | .crypt span => [hostCommand .encrypt span]

/-- The value of a hexadecimal digit. -/
def hexDigit (c : Char) : Option Nat :=
  let n := c.toNat
  if 48 ≤ n ∧ n ≤ 57 then some (n - 48)
  else if 97 ≤ n ∧ n ≤ 102 then some (n - 87)
  else if 65 ≤ n ∧ n ≤ 70 then some (n - 55)
  else none

/-- An even number of hexadecimal digits, two to a byte. -/
def hexBytes : List Char → Option (List Byte)
  | [] => some []
  | [_] => none
  | c :: d :: rest =>
    match hexDigit c, hexDigit d, hexBytes rest with
    | some h, some l, some bs => some (BitVec.ofNat 8 (16 * h + l) :: bs)
    | _, _, _ => none

/-- The words of a text, split at spaces. -/
def splitWords (cs : List Char) : List (List Char) :=
  (cs.foldr (fun c acc => if c = ' ' then [] :: acc else (c :: acc.headD []) :: acc.tail) [[]]).filter (· ≠ [])

/-- A `<hex>` (R71): digits, optionally split by spaces, or `-` for none. -/
def parseHex (ws : List (List Char)) : Option (List Byte) :=
  if ws = [['-']] then some []
  else if ws = [] then none
  else hexBytes ws.flatten

/-- The algorithm of a name (spec/00_scope.md R4). -/
def parseName (w : List Char) : Option Alg :=
  [Alg.aes128Cbc, .aes192Cbc, .aes256Cbc, .rijndaelCbc, .aes128Ctr, .aes192Ctr, .aes256Ctr].find?
    fun a => (algName a).toList = w

/-- A command word written `0x` and eight hexadecimal digits (R71). -/
def parseWord : List Char → Option Word
  | '0' :: 'x' :: ds =>
    match hexBytes ds with
    | some [b0, b1, b2, b3] => some (b0 ++ b1 ++ b2 ++ b3)
    | _ => none
  | _ => none

/-- The three operands `<name>, <key>, <block>` of an ECB pseudo-instruction, split at commas (R72, R73). The name is a CBC
algorithm's. -/
def parseEcb (rest : List Char) : Option (Alg × List Byte × List Byte) :=
  let name := splitWords (rest.takeWhile (· ≠ ','))
  let afterName := (rest.dropWhile (· ≠ ',')).drop 1
  let key := splitWords (afterName.takeWhile (· ≠ ','))
  let block := splitWords ((afterName.dropWhile (· ≠ ',')).drop 1)
  match name.map parseName, parseHex key, parseHex block with
  | [some a], some k, some b => if modeOf a = .cbc then some (a, k, b) else none
  | _, _, _ => none

/-- What stands after the first word of a line. -/
def afterFirstWord (cs : List Char) : List Char := (cs.dropWhile (· = ' ')).dropWhile (· ≠ ' ')

/-- One line of text (R71): its line, none for a blank or comment line; an error for anything else. -/
def parseLine (text : List Char) : Option (Option AsmLine) :=
  let cs := text.takeWhile (· ≠ ';')
  match splitWords cs with
  | [] => some none
  | op :: args =>
    if op = "NEW".toList then
      match args.map parseName with
      | [some a] => some (some (.new a))
      | _ => none
    else if op = "SET_KEY".toList then (parseHex args).map fun h => some (.setKey h)
    else if op = "SET_IV".toList then (parseHex args).map fun h => some (.setIv h)
    else if op = "ENCRYPT".toList then (parseHex args).map fun h => some (.encrypt h)
    else if op = "DECRYPT".toList then (parseHex args).map fun h => some (.decrypt h)
    else if op = "CRYPT".toList then (parseHex args).map fun h => some (.crypt h)
    else if op = "FREE".toList then (if args = [] then some (some .free) else none)
    else if op = ".cmd".toList then
      match args with
      | w :: h =>
        match parseWord w, parseHex h with
        | some word, some operand => some (some (.raw word operand))
        | _, _ => none
      | [] => none
    else if op = "ECB_ENCRYPT".toList then (parseEcb (afterFirstWord cs)).map fun t => some (.ecbEncrypt t.1 t.2.1 t.2.2)
    else if op = "ECB_DECRYPT".toList then (parseEcb (afterFirstWord cs)).map fun t => some (.ecbDecrypt t.1 t.2.1 t.2.2)
    else none

/-- A host program of lines of text: the commands in order, or an error if a line does not parse (R71). -/
def assembleText : List String → Option (List Command)
  | [] => some []
  | line :: rest =>
    match parseLine line.toList, assembleText rest with
    | some none, some cs => some cs
    | some (some l), some cs => some (assembleLine l ++ cs)
    | _, _ => none

end Sys2Proof.Machine
end

