-- ==== Sys2Proof/Safety.lean ====
section
/-! DEFINITION. What claims about a run are stated in: the end of a run, and the invariant of the core between commands. -/

namespace Sys2Proof.Safety

open Sys2Proof.Machine

/-- A run has ended normally: every command of the program has completed and there is no fault (spec/10_state.md R14,
decision D34). A faulted state is never final (spec/60_exceptions.md R185). -/
abbrev Finished (s : State) : Prop := s.pc = s.prog.length ∧ s.faulted = false

/-- `FAULT_CAUSE` is 0 exactly while `FAULTED` is 0 (spec/10_state.md R25). -/
abbrev FaultInv (s : State) : Prop := s.faulted = true ↔ s.faultCause ≠ .none

/-- Without a context every field of it is zero, scratch state too (spec/10_state.md R33, R35). -/
abbrev NoContextInv (s : State) : Prop :=
  s.ctxLive = false → s.keyed = false ∧ s.ivValid = false ∧ s.impl = .portable ∧ s.alg = .aes128Cbc ∧ s.scratch = Scratch.zero

/-- A live context has the path `NEW` selected (spec/10_state.md R19). -/
abbrev ImplInv (s : State) : Prop := s.ctxLive = true → s.impl = selectImpl s.cfg

/-- Until `SET_KEY`, `NR` and both schedules are zero (spec/10_state.md R21, R33, R34). -/
abbrev UnkeyedInv (s : State) : Prop := s.keyed = false → s.nr = 0#5 ∧ s.fwd = Schedule.zero ∧ s.inv = Schedule.zero

/-- Until `SET_IV`, `IV` is zero (spec/10_state.md R33, R34). -/
abbrev NoIvInv (s : State) : Prop := s.ivValid = false → s.iv = 0#128

/-- A keyed context holds the schedules of some key of its algorithm's length, whole (spec/10_state.md R17, R21 to R23,
spec/41_key_schedule.md R109). -/
def KeyedInv (s : State) : Prop :=
  s.keyed = true → ∃ key : List Byte, key.length = keyBytes s.alg ∧
    s.fwd = keyExpand key (keyBytes s.alg / 4) ∧
    s.inv = invExpand (keyExpand key (keyBytes s.alg / 4)) (keyBytes s.alg / 4 + 6) ∧
    s.nr = BitVec.ofNat 5 (keyBytes s.alg / 4 + 6)

/-- The buffer is in its canonical form and lists no offset at or above `L` (spec/20_memory.md R38). -/
abbrev BufferInv (s : State) : Prop := Memory.wf s.mem = true ∧ Memory.below s.len s.mem = true

/-- The invariant of the core between commands. -/
structure Inv (s : State) : Prop where
  fault : FaultInv s
  noContext : NoContextInv s
  impl : ImplInv s
  unkeyed : UnkeyedInv s
  noIv : NoIvInv s
  keyed : KeyedInv s
  buffer : BufferInv s

/-- A block command is accepted in `s`: no fault stands, and every check of spec/45_commands.md R160 passes. -/
abbrev BlockReady (s : State) : Prop :=
  s.faulted = false ∧ s.ctxLive = true ∧ s.keyed = true ∧ s.ivValid = true ∧ s.len % 16 = 0 ∧
    s.len ≤ s.cfg.maxSpanBytes ∧ (s.len = 0 → s.cfg.zeroLen = .noop)

end Sys2Proof.Safety
end

