-- ==== Sys2Proof/Safety/Reference.lean ====
section
/-! DEFINITION. What the results of the core are compared with: the AES cipher written step by step (spec/00_scope.md R13), the
modes as recurrences over blocks (spec/43_modes.md), and the views of a state that statements use. -/

namespace Sys2Proof.Safety

open Sys2Proof.Machine

/-- A state whose buffer holds the bytes `bs`. -/
def withBuffer (bs : List Byte) (s : State) : State := { s with mem := Memory.ofBytes bs, len := bs.length }

/-- A state with another path tag. -/
def withImpl (p : Impl) (s : State) : State := { s with impl := p }

/-- A state with other contents of `FWD`, `INV` and IV, the secret cells of spec/10_state.md R28 besides scratch state. -/
def withSecrets (f g : Schedule) (v : Block) (s : State) : State := { s with fwd := f, inv := g, iv := v }

/-- A step from `s` takes the command `i` from the host: the reset input is released, and the next command's word is one of `i`. -/
abbrev Takes (s : State) (i : Instr) : Prop :=
  s.resetIn = .released ∧ ∃ c, nextCommand s = some c ∧ c.agent = .host ∧ decode c.word = .command i

/-- When a command breaks its contract, by the column "when" of spec/60_exceptions.md R181, `L` being its operand's length. -/
def BreaksContract (c : Command) (s : State) : Prop :=
  match decode c.word with
  | .illegalCommand => True
  | .command (.new _) => s.ctxLive = true ∨ c.operand.length ≠ 0
  | .command .setKey => s.ctxLive = false ∨ c.operand.length ≠ keyBytes s.alg
  | .command .setIv => s.ctxLive = false ∨ c.operand.length ≠ 16
  | .command .encrypt | .command .decrypt =>
    s.ctxLive = false ∨ s.keyed = false ∨ s.ivValid = false ∨ c.operand.length % 16 ≠ 0 ∨
      s.cfg.maxSpanBytes < c.operand.length ∨ (c.operand.length = 0 ∧ s.cfg.zeroLen = .reject)
  | .command .free => s.ctxLive = false ∨ c.operand.length ≠ 0

/-- `Nk` of a legal key length (spec/41_key_schedule.md R100). -/
abbrev LegalNk (nk : Nat) : Prop := nk = 4 ∨ nk = 6 ∨ nk = 8

/-- The round constants at their uses (spec/41_key_schedule.md R103). -/
def roundConstants : List Byte :=
  [0x01#8, 0x02#8, 0x04#8, 0x08#8, 0x10#8, 0x20#8, 0x40#8, 0x80#8, 0x1B#8, 0x36#8]

/-- SubBytes: every byte through `SBOX`. -/
def subBytes (s : Cols) : Cols := ⟨subWord s.c0, subWord s.c1, subWord s.c2, subWord s.c3⟩

/-- ShiftRows: row `r` of column `i` comes from column `i + r` (spec/42_round_engine.md R117). -/
def shiftRows (s : Cols) : Cols :=
  colsOf (fun s i => beU32 (wordByte (col s i) 0) (wordByte (col s (i + 1)) 1) (wordByte (col s (i + 2)) 2)
    (wordByte (col s (i + 3)) 3)) s

/-- MixColumns: every column through `MixColumn`. -/
def mixColumns (s : Cols) : Cols := ⟨mixColumn s.c0, mixColumn s.c1, mixColumn s.c2, mixColumn s.c3⟩

/-- InvSubBytes: every byte through `SINV`. -/
def invSubBytes (s : Cols) : Cols :=
  colsOf (fun s i => beU32 (sinv (wordByte (col s i) 0)) (sinv (wordByte (col s i) 1)) (sinv (wordByte (col s i) 2))
    (sinv (wordByte (col s i) 3))) s

/-- InvShiftRows: row `r` of column `i` comes from column `i - r` (spec/42_round_engine.md R120). -/
def invShiftRows (s : Cols) : Cols :=
  colsOf (fun s i => beU32 (wordByte (col s i) 0) (wordByte (col s (i + 3)) 1) (wordByte (col s (i + 2)) 2)
    (wordByte (col s (i + 1)) 3)) s

/-- InvMixColumns: every column through `InvMixColumn`. -/
def invMixColumns (s : Cols) : Cols :=
  ⟨invMixColumn s.c0, invMixColumn s.c1, invMixColumn s.c2, invMixColumn s.c3⟩

/-- Full rounds of the cipher, from round key `r`: SubBytes, ShiftRows, MixColumns, AddRoundKey (spec/00_scope.md R13). -/
def cipherRounds (w : Schedule) : (left r : Nat) → Cols → Cols
  | 0, _, s => s
  | left + 1, r, s => cipherRounds w left (r + 1) (addKey (mixColumns (shiftRows (subBytes s))) (roundKey w (4 * r)))

/-- The AES cipher, step by step: the last round omits MixColumns (spec/00_scope.md R13). -/
def cipher (w : Schedule) (nr : Nat) (x : Block) : Block :=
  blockOfCols (addKey
    (shiftRows (subBytes (cipherRounds w (nr - 1) 1 (addKey (colsOfBlock x) (roundKey w 0))))) (roundKey w (4 * nr)))

/-- Full rounds of the inverse cipher over the FORWARD schedule, from round key `r` down: the steps of a round undone in turn. -/
def invCipherRounds (w : Schedule) : (r : Nat) → Cols → Cols
  | 0, s => s
  | r + 1, s => invCipherRounds w r (invMixColumns (addKey (invSubBytes (invShiftRows s)) (roundKey w (4 * (r + 1)))))

/-- The inverse of the AES cipher, step by step, over the forward schedule. -/
def invCipher (w : Schedule) (nr : Nat) (y : Block) : Block :=
  blockOfCols (addKey
    (invSubBytes (invShiftRows (invCipherRounds w (nr - 1) (addKey (colsOfBlock y) (roundKey w (4 * nr)))))) (roundKey w 0))

/-- Ciphertext block `k` of CBC over the blocks `p`, from the chaining value `v` (spec/43_modes.md R131). -/
def cbcCipherBlock (enc : Block → Block) (v : Block) (p : Nat → Block) : Nat → Block
  | 0 => enc (p 0 ^^^ v)
  | k + 1 => enc (p (k + 1) ^^^ cbcCipherBlock enc v p k)

/-- The block before block `k` of a span, the chaining value before the first. -/
def previousBlock (v : Block) (c : Nat → Block) : Nat → Block
  | 0 => v
  | k + 1 => c k

/-- Block `n - 1` of a span of `n` blocks, the chaining value for an empty span: the block before block `n`. -/
def lastBlock (v : Block) (c : Nat → Block) (n : Nat) : Block := previousBlock v c n

/-- What no command changes: the build, the program, and the reset input. -/
abbrev SameHost (s t : State) : Prop := t.cfg = s.cfg ∧ t.prog = s.prog ∧ t.resetIn = s.resetIn

/-- No fault is taken and none is cleared. -/
abbrev SameFault (s t : State) : Prop := t.faulted = s.faulted ∧ t.faultCause = s.faultCause

/-- Every byte of the buffer is as it was, and its length. -/
abbrev SameBuffer (s t : State) : Prop := t.len = s.len ∧ ∀ a, Memory.read t.mem a = Memory.read s.mem a

end Sys2Proof.Safety
end

