-- ==== Sys2Proof/Certificates/Slice0/Obligations.lean ====
section
/-! DEFINITION. The statements for the provers. OBLIGATIONS.json gives each its rule of spec/. -/

open Sys2Proof Sys2Proof.Machine Sys2Proof.Safety

-- ENCODING

/-- R61, R64, R67: a word decodes to a command exactly when the command is well formed and its encoding is that word. So decode
undoes encode, every bit of a legal word is fixed, and no two commands share a word. -/
def Obligations.DecodeIffEncode : Prop :=
  ∀ (w : Word) (i : Instr), decode w = .command i ↔ WellFormed i = true ∧ encode i = w

/-- R67, the pseudocode of `decode` on the numbers of the fields, and the 12 legal words. -/
def Obligations.DecoderFollowsPseudocode : Prop :=
  (∀ w : Word, w.toNat / 128 ≠ 0 → decode w = .illegalCommand) ∧
  (∀ w : Word, w.toNat / 128 = 0 →
    (w.toNat % 16 = 1 → w.toNat / 16 = 7 → decode w = .illegalCommand) ∧
    (w.toNat % 16 = 1 → w.toNat / 16 ≠ 7 → decode w = .command (.new (BitVec.ofNat 3 (w.toNat / 16)))) ∧
    (2 ≤ w.toNat % 16 → w.toNat % 16 ≤ 6 → w.toNat / 16 ≠ 0 → decode w = .illegalCommand) ∧
    (w.toNat % 16 = 2 → w.toNat / 16 = 0 → decode w = .command .setKey) ∧
    (w.toNat % 16 = 3 → w.toNat / 16 = 0 → decode w = .command .setIv) ∧
    (w.toNat % 16 = 4 → w.toNat / 16 = 0 → decode w = .command .encrypt) ∧
    (w.toNat % 16 = 5 → w.toNat / 16 = 0 → decode w = .command .decrypt) ∧
    (w.toNat % 16 = 6 → w.toNat / 16 = 0 → decode w = .command .free) ∧
    (w.toNat % 16 = 0 ∨ 7 ≤ w.toNat % 16 → decode w = .illegalCommand)) ∧
  (∀ w : Word, (∃ i, decode w = .command i) ↔
    w ∈ [0x00000001#32, 0x00000011#32, 0x00000021#32, 0x00000031#32, 0x00000041#32, 0x00000051#32, 0x00000061#32,
      0x00000002#32, 0x00000003#32, 0x00000004#32, 0x00000005#32, 0x00000006#32])

/-- R62, R64, R68: a reserved bit is never ignored: such a word is illegal, and so is every word with a reserved `OP`. A core that
takes an illegal word, whatever makes it illegal, takes the fault `ILLEGAL_COMMAND` (R181). Nothing else changes (R14, R180,
R183): the command index stays, and so do the schedules, the IV, the lifecycle flags, NR, scratch state and every other field
but the fault bits, the answer and the buffer. The answer is STATUS alone (R66), and the buffer holds the command's operand
as the host gave it, which is where the model has it stand (log entry 1). -/
def Obligations.ReservedBitsFault : Prop :=
  (∀ w : Word, (rsvField w ≠ 0#25 ∨ (algField w ≠ 0#3 ∧ opField w ≠ 1#4) ∨ (opField w = 1#4 ∧ algField w = 7#3) ∨
    opField w = 0#4 ∨ 7 ≤ (opField w).toNat) → decode w = .illegalCommand) ∧
  ∀ (s : State) (c : Command), s.resetIn = .released → s.faulted = false → nextCommand s = some c → c.agent = .host →
    decode c.word = .illegalCommand →
    ∃ t, step s = .next t ∧ t.faulted = true ∧ t.faultCause = .illegalCommand ∧ t.pc = s.pc ∧
      t.answer = some ⟨statusWord t, false⟩ ∧ bufferBytes t = c.operand ∧
      { t with faulted := s.faulted, faultCause := s.faultCause, answer := s.answer, mem := s.mem, len := s.len } = s

/-- Words of spec/opcode_table.json and of section 2.5 of the vectors, decoded. -/
def Obligations.SampleWordsDecode : Prop :=
  decode 0x00000061#32 = .command (.new 6#3) ∧ decode 0x00000002#32 = .command .setKey ∧
  decode 0x00000003#32 = .command .setIv ∧ decode 0x00000004#32 = .command .encrypt ∧
  decode 0x00000005#32 = .command .decrypt ∧ decode 0x00000006#32 = .command .free ∧
  decode 0x00000000#32 = .illegalCommand ∧ decode 0x00000007#32 = .illegalCommand ∧
  decode 0x00000012#32 = .illegalCommand ∧ decode 0x80000001#32 = .illegalCommand

/-- R63, R71: the assembler's word for each of the seven names and six commands decodes to the command it is written for, the
operand's bytes beside it, and each name as text gives the word with its code. -/
def Obligations.AssembledLinesDecode : Prop :=
  (∀ a : Alg, ∃ c, assembleLine (.new a) = [c] ∧ decode c.word = .command (.new (algCode a)) ∧
    algOfCode (algCode a) = some a ∧ c.operand = []) ∧
  (∀ bs : List Byte,
    (∃ c, assembleLine (.setKey bs) = [c] ∧ decode c.word = .command .setKey ∧ c.operand = bs) ∧
    (∃ c, assembleLine (.setIv bs) = [c] ∧ decode c.word = .command .setIv ∧ c.operand = bs) ∧
    (∃ c, assembleLine (.encrypt bs) = [c] ∧ decode c.word = .command .encrypt ∧ c.operand = bs) ∧
    (∃ c, assembleLine (.decrypt bs) = [c] ∧ decode c.word = .command .decrypt ∧ c.operand = bs) ∧
    assembleLine (.crypt bs) = assembleLine (.encrypt bs)) ∧
  (∃ c, assembleLine .free = [c] ∧ decode c.word = .command .free ∧ c.operand = []) ∧
  (assembleText ["NEW aes128-cbc"] = some [⟨0x00000001#32, [], .host⟩] ∧
    assembleText ["NEW aes192-cbc"] = some [⟨0x00000011#32, [], .host⟩] ∧
    assembleText ["NEW aes256-cbc"] = some [⟨0x00000021#32, [], .host⟩] ∧
    assembleText ["NEW rijndael-cbc@lysator.liu.se"] = some [⟨0x00000031#32, [], .host⟩] ∧
    assembleText ["NEW aes128-ctr"] = some [⟨0x00000041#32, [], .host⟩] ∧
    assembleText ["NEW aes192-ctr"] = some [⟨0x00000051#32, [], .host⟩] ∧
    assembleText ["NEW aes256-ctr"] = some [⟨0x00000061#32, [], .host⟩])

-- STEPS

/-- R60, R160: where the reset input is released and no fault stands, a step takes the host's next command: if its word decodes to
a well-formed command, the step is `exec` of it with its operand in the buffer. Nothing else is added around `exec`. That the
operand stands in the buffer as the core takes the command, and the buffer's form, are the model's (log entries 1, 2). -/
def Obligations.StepRunsDecodedCommand : Prop :=
  ∀ (s : State) (c : Command) (i : Instr), s.resetIn = .released → s.faulted = false → nextCommand s = some c →
    c.agent = .host → decode c.word = .command i →
    WellFormed i = true ∧ step s = exec i { s with mem := Memory.ofBytes c.operand, len := c.operand.length }

/-- R38, R60: an operand placed in the buffer reads back byte for byte. That it is placed there as the core takes the command is the
model's reading (log entry 1), and the buffer's canonical form, which the placing gives, is the model's choice (log
entry 2). -/
def Obligations.OperandIsPlaced : Prop :=
  ∀ (s : State) (c : Command), bufferBytes (placeOperand c s) = c.operand ∧ (placeOperand c s).len = c.operand.length ∧
    BufferInv (placeOperand c s)

/-- R168, R186: a command given to a faulted core changes nothing but the answer, which is STATUS and still shows the first
fault; and in the model a faulted core has no further step. -/
def Obligations.FaultedCoreIgnoresCommands : Prop :=
  (∀ (i : Instr) (s : State), s.faulted = true →
    ∃ t, exec i s = .next t ∧ t = { s with answer := some ⟨statusWord s, false⟩ } ∧ statusWord t = statusWord s) ∧
  (∀ s : State, s.faulted = true → s.resetIn = .released → step s = .fault (.coreFaulted s.faultCause))

/-- R53, R168, R185, R200 and U1, U4: when a step does not give a next state. It ends in a fault exactly on a faulted core whose
reset input is released, and it is refused exactly on a reset asserted during a command and on a second agent's command. The
order of these tests and the form of the two inputs are the model's choice (log entries 7, 8, 10). -/
def Obligations.StepStopsExactly : Prop :=
  (∀ (s : State) (f : Fault), step s = .fault f ↔
    s.resetIn = .released ∧ s.faulted = true ∧ f = .coreFaulted s.faultCause) ∧
  (∀ (s : State) (r : Refusal), step s = .refused r ↔
    (s.resetIn = .duringCommand ∧ r = .resetDuringCommand) ∨
    (s.resetIn = .released ∧ s.faulted = false ∧ r = .secondAgent ∧ ∃ c, nextCommand s = some c ∧ c.agent = .other))

/-- R195, R201: with no command to take, the core holds its state. That this waiting is a step that changes nothing is the model's
choice (log entry 9). -/
def Obligations.CoreWaitsForCommand : Prop :=
  ∀ s : State, s.resetIn = .released → s.faulted = false → s.prog.length ≤ s.pc → step s = .next s

/-- R66, R160, R167: every command, on every state, is answered: the answer's STATUS word is the state's after the command, and
the span comes with it exactly when a block command has completed. No command stops the machine. -/
def Obligations.EveryCommandAnswers : Prop :=
  ∀ (i : Instr) (s : State), ∃ t b, exec i s = .next t ∧ t.answer = some ⟨statusWord t, b⟩ ∧
    (b = true ↔ (i = .encrypt ∨ i = .decrypt) ∧ t.faulted = false)

/-- R14, R160: a command on a core without a fault either completes and advances the command index by one, or takes a fault and
leaves it. -/
def Obligations.CommandIndexAdvances : Prop :=
  ∀ (i : Instr) (s t : State), s.faulted = false → exec i s = .next t →
    (t.faulted = false ∧ t.pc = s.pc + 1) ∨ (t.faulted = true ∧ t.pc = s.pc)

-- RESET

/-- R33, R26: the state after reset, field by field, and its STATUS word. -/
def Obligations.ResetState : Prop :=
  State.reset.ctxLive = false ∧ State.reset.keyed = false ∧ State.reset.ivValid = false ∧ State.reset.impl = .portable ∧
  algCode State.reset.alg = 0#3 ∧ State.reset.nr = 0#5 ∧ State.reset.faulted = false ∧ State.reset.faultCause = .none ∧
  (∀ i, schedWord State.reset.fwd i = 0#32 ∧ schedWord State.reset.inv i = 0#32) ∧ State.reset.iv = 0#128 ∧
  State.reset.scratch = Scratch.zero ∧ State.reset.pc = 0 ∧ statusWord State.reset = 0x00000000#32

/-- R200: a reset asserted between commands, from every state, faulted or not, sets every field of the core to its value of
R33. That the build, the host's program and its buffer stay, that the assertion is used up and that no answer stands is the
model's choice (log entries 3, 8). -/
def Obligations.HardwareResetSetsEveryField : Prop :=
  ∀ s : State, s.resetIn = .betweenCommands →
    ∃ t, step s = .next t ∧ t.ctxLive = false ∧ t.keyed = false ∧ t.ivValid = false ∧ t.impl = .portable ∧
      algCode t.alg = 0#3 ∧ t.nr = 0#5 ∧ t.faulted = false ∧ t.faultCause = .none ∧ t.fwd = Schedule.zero ∧
      t.inv = Schedule.zero ∧ t.iv = 0#128 ∧ t.scratch = Scratch.zero ∧ t.pc = 0 ∧ statusWord t = 0x00000000#32 ∧
      t.cfg = s.cfg ∧ t.prog = s.prog ∧ SameBuffer s t ∧ t.resetIn = .released ∧ t.answer = none

/-- R201, R181: without a context every command but `NEW` takes the fault `NO_CONTEXT`. -/
def Obligations.NoContextFaults : Prop :=
  ∀ (s : State) (i : Instr), s.faulted = false → s.ctxLive = false →
    i = .setKey ∨ i = .setIv ∨ i = .encrypt ∨ i = .decrypt ∨ i = .free →
    ∃ t, exec i s = .next t ∧ t.faulted = true ∧ t.faultCause = .noContext ∧ t.pc = s.pc

-- THE INVARIANT

/-- R33: the state after reset meets the invariant, whatever the build. The invariant's clause on the buffer's canonical form, and
the empty buffer that reset has, are the model's choice (log entry 2), and that unwritten cells hold the zero of R33 is the
model's reading of R32 (log entry 5). -/
def Obligations.ResetMeetsInvariant : Prop := Inv State.reset ∧ ∀ p : Params, Inv (State.resetWith p)

/-- R16 to R25, R33 to R35, R109: every step keeps the invariant: a fault has a cause, a core without a context is wiped, a live
context has the selected path, unwritten cells are zero, and a keyed context holds both schedules of one key of its
algorithm's length, whole. Its last clause, that the buffer keeps its canonical form, is about the form the model chose
for it (log entry 2), and that unwritten cells hold the zero of R33 is the model's reading of R32 (log entry 5). -/
def Obligations.StepKeepsInvariant : Prop := ∀ s t : State, Inv s → step s = .next t → Inv t

-- THE COMMANDS

/-- R161, R34: `NEW` with a legal code and an empty operand, without a context, completes: the context is live with the command's
algorithm and the selected path, unkeyed and without an IV; schedules and IV are not written. The code fixes the algorithm's
key length and mode (R20, R63): 16 bytes for codes 0 and 4, 24 for 1 and 5, 32 for 2, 3 and 6; CBC for codes 0 to 3, CTR for
codes 4 to 6. -/
def Obligations.NewCreatesContext : Prop :=
  ∀ (s : State) (code : BitVec 3), s.faulted = false → code ≠ 7#3 → s.ctxLive = false → s.len = 0 →
    ∃ t, exec (.new code) s = .next t ∧ t.ctxLive = true ∧ algCode t.alg = code ∧
      keyBytes t.alg = (if code = 0#3 ∨ code = 4#3 then 16 else if code = 1#3 ∨ code = 5#3 then 24 else 32) ∧
      modeOf t.alg = (if code.toNat ≤ 3 then .cbc else .ctr) ∧
      t.impl = (if s.cfg.hwCompiled ∧ s.cfg.hwAvailable then .hardware else .portable) ∧
      t.keyed = false ∧ t.ivValid = false ∧ t.nr = 0#5 ∧ t.fwd = s.fwd ∧ t.inv = s.inv ∧ t.iv = s.iv ∧ t.pc = s.pc + 1 ∧
      t.answer = some ⟨statusWord t, false⟩ ∧ SameFault s t

/-- R161, R182: the faults of `NEW`, in their order. -/
def Obligations.NewFaultsInOrder : Prop :=
  ∀ (s t : State) (code : BitVec 3), s.faulted = false → exec (.new code) s = .next t →
    t.faultCause = (if code = 7#3 then .illegalCommand else if s.ctxLive then .contextLive
      else if s.len ≠ 0 then .badOperandLength else s.faultCause) ∧
    (t.faulted = true ↔ code = 7#3 ∨ s.ctxLive = true ∨ s.len ≠ 0)

/-- R189: `HW_AVAILABLE = false` raises no fault and sets `IMPL = 0`. -/
def Obligations.UnavailableHardwareIsNoError : Prop :=
  ∀ (s : State) (code : BitVec 3), s.cfg.hwAvailable = false → s.faulted = false → code ≠ 7#3 → s.ctxLive = false →
    s.len = 0 → ∃ t, exec (.new code) s = .next t ∧ t.faulted = false ∧ t.impl = .portable ∧ implBit t.impl = 0#1

/-- R162, R21 to R23, R109: `SET_KEY` with a key of the algorithm's length completes: both schedules are written whole from the
key, `NR` and `KEYED` are set, the key copy is zero, and IV, IV_VALID, IMPL and ALG stay. The inverse schedule is that of
R106 on both paths (R147). -/
def Obligations.SetKeyInstallsSchedules : Prop :=
  ∀ s : State, s.faulted = false → s.ctxLive = true → s.len = keyBytes s.alg →
    ∃ t, exec .setKey s = .next t ∧ t.fwd = keyExpand (bufferBytes s) (s.len / 4) ∧
      t.inv = invExpand (keyExpand (bufferBytes s) (s.len / 4)) (s.len / 4 + 6) ∧ t.nr.toNat = s.len / 4 + 6 ∧
      t.keyed = true ∧ t.scratch.keyBuf = Vector.replicate 32 0#8 ∧ t.iv = s.iv ∧ t.ivValid = s.ivValid ∧
      t.impl = s.impl ∧ t.alg = s.alg ∧ t.pc = s.pc + 1 ∧ t.answer = some ⟨statusWord t, false⟩ ∧ SameFault s t

/-- R162, R181, R182: a context's `SET_KEY` whose operand is not the algorithm's key length, another legal AES length too, takes
the fault `BAD_KEY_LENGTH`. -/
def Obligations.SetKeyChecksLength : Prop :=
  ∀ s : State, s.faulted = false → s.ctxLive = true → s.len ≠ keyBytes s.alg →
    ∃ t, exec .setKey s = .next t ∧ t.faulted = true ∧ t.faultCause = .badKeyLength ∧ t.fwd = s.fwd ∧ t.inv = s.inv ∧
      t.nr = s.nr ∧ t.keyed = s.keyed

/-- R163, R24: `SET_IV` with 16 bytes completes: byte `i` of the IV is byte `i` of the operand, byte 0 most significant. -/
def Obligations.SetIvInstallsIv : Prop :=
  ∀ s : State, s.faulted = false → s.ctxLive = true → s.len = 16 →
    ∃ t, exec .setIv s = .next t ∧ (∀ i, i < 16 → blockByte t.iv i = Memory.read s.mem i) ∧ t.ivValid = true ∧
      t.keyed = s.keyed ∧ t.pc = s.pc + 1 ∧ t.answer = some ⟨statusWord t, false⟩ ∧ SameFault s t

/-- R163, R181: a context's `SET_IV` whose operand is not 16 bytes takes the fault `BAD_IV_LENGTH`. -/
def Obligations.SetIvChecksLength : Prop :=
  ∀ s : State, s.faulted = false → s.ctxLive = true → s.len ≠ 16 →
    ∃ t, exec .setIv s = .next t ∧ t.faulted = true ∧ t.faultCause = .badIvLength ∧ t.iv = s.iv ∧ t.ivValid = s.ivValid

/-- R131, R164: `ENCRYPT` in a CBC context. Block `k` of the span becomes the encryption of itself added to the ciphertext block
before it, the IV before the first, under `FWD`; IV becomes the last ciphertext block, and stays for an empty span. -/
def Obligations.EncryptCbcChains : Prop :=
  ∀ s : State, BlockReady s → modeOf s.alg = .cbc → BufferInv s →
    ∃ t, exec .encrypt s = .next t ∧
      (∀ k, k < s.len / 16 → spanRead t.mem k = cbcCipherBlock (ecbEnc s.fwd s.nr.toNat) s.iv (spanRead s.mem) k) ∧
      t.iv = lastBlock s.iv (cbcCipherBlock (ecbEnc s.fwd s.nr.toNat) s.iv (spanRead s.mem)) (s.len / 16) ∧
      t.pc = s.pc + 1 ∧ t.answer = some ⟨statusWord t, true⟩ ∧ SameFault s t

/-- R132, R133, R165: `DECRYPT` in a CBC context. Block `k` of the span becomes its decryption under `INV` added to the
CIPHERTEXT block before it, not to the plaintext written over it; IV becomes the last ciphertext block. -/
def Obligations.DecryptCbcUnchains : Prop :=
  ∀ s : State, BlockReady s → modeOf s.alg = .cbc → BufferInv s →
    ∃ t, exec .decrypt s = .next t ∧
      (∀ k, k < s.len / 16 →
        spanRead t.mem k = ecbDec s.inv s.nr.toNat (spanRead s.mem k) ^^^ previousBlock s.iv (spanRead s.mem) k) ∧
      t.iv = lastBlock s.iv (spanRead s.mem) (s.len / 16) ∧ t.pc = s.pc + 1 ∧ t.answer = some ⟨statusWord t, true⟩ ∧
      SameFault s t

/-- R134, R136, R164, R165: `ENCRYPT` and `DECRYPT` in a CTR context are one operation. Block `k` of the span is added to the
encryption of the counter IV plus `k`; IV becomes IV plus the number of blocks, modulo 2^128. That the two commands leave the
same scratch state too is no rule's (R31 leaves it unspecified): in the model its free values depend on the draw alone (log
entry 6). -/
def Obligations.CtrAddsKeystream : Prop :=
  ∀ s : State, BlockReady s → modeOf s.alg = .ctr → BufferInv s →
    ∃ t, exec .encrypt s = .next t ∧ exec .decrypt s = .next t ∧
      (∀ k, k < s.len / 16 →
        spanRead t.mem k = spanRead s.mem k ^^^ ecbEnc s.fwd s.nr.toNat (s.iv + BitVec.ofNat 128 k)) ∧
      t.iv = s.iv + BitVec.ofNat 128 (s.len / 16) ∧ t.pc = s.pc + 1 ∧ t.answer = some ⟨statusWord t, true⟩ ∧
      SameFault s t

/-- R164, R165, R182: the faults of `ENCRYPT` and `DECRYPT` in a live context, in their order: `NOT_KEYED`, `IV_NOT_SET`,
`BAD_SPAN_LENGTH`. -/
def Obligations.BlockFaultsInOrder : Prop :=
  ∀ (i : Instr) (s t : State), i = .encrypt ∨ i = .decrypt → s.faulted = false → s.ctxLive = true → exec i s = .next t →
    (s.keyed = false → t.faulted = true ∧ t.faultCause = .notKeyed) ∧
    (s.keyed = true → s.ivValid = false → t.faulted = true ∧ t.faultCause = .ivNotSet) ∧
    (s.keyed = true → s.ivValid = true →
      s.len % 16 ≠ 0 ∨ s.cfg.maxSpanBytes < s.len ∨ (s.len = 0 ∧ s.cfg.zeroLen = .reject) →
      t.faulted = true ∧ t.faultCause = .badSpanLength) ∧
    (BlockReady s → t.faulted = false)

/-- R46, R130, C4: the zero-length span follows `ZERO_LEN_POLICY`, the same way for both commands: under `NOOP` it completes and
writes neither the span nor the IV, under `REJECT` it takes the fault `BAD_SPAN_LENGTH`. -/
def Obligations.ZeroLengthFollowsPolicy : Prop :=
  ∀ (i : Instr) (s : State), i = .encrypt ∨ i = .decrypt → s.faulted = false → s.ctxLive = true → s.keyed = true →
    s.ivValid = true → s.len = 0 →
    ∃ t, exec i s = .next t ∧ t.mem = s.mem ∧ t.iv = s.iv ∧
      (s.cfg.zeroLen = .noop → t.faulted = false ∧ t.pc = s.pc + 1) ∧
      (s.cfg.zeroLen = .reject → t.faulted = true ∧ t.faultCause = .badSpanLength ∧ t.pc = s.pc)

/-- R166, R35: `FREE` with an empty operand, on any live context, keyed or not, completes: every storage element of the context
is zero, scratch state and key copy too, and STATUS reads 0. -/
def Obligations.FreeWipesContext : Prop :=
  ∀ s : State, s.faulted = false → s.faultCause = .none → s.ctxLive = true → s.len = 0 →
    ∃ t, exec .free s = .next t ∧ t.ctxLive = false ∧ t.keyed = false ∧ t.ivValid = false ∧ t.impl = .portable ∧
      algCode t.alg = 0#3 ∧ t.nr = 0#5 ∧ (∀ i, schedWord t.fwd i = 0#32 ∧ schedWord t.inv i = 0#32) ∧ t.iv = 0#128 ∧
      t.scratch = Scratch.zero ∧ statusWord t = 0x00000000#32 ∧ t.pc = s.pc + 1 ∧
      t.answer = some ⟨0x00000000#32, false⟩ ∧ SameFault s t

/-- R166, R181, R183: a context's `FREE` with an operand takes the fault `BAD_OPERAND_LENGTH` and wipes nothing: every field but
the fault bits and the answer is as it was. -/
def Obligations.FreeChecksLength : Prop :=
  ∀ s : State, s.faulted = false → s.ctxLive = true → s.len ≠ 0 →
    ∃ t, exec .free s = .next t ∧ t.faulted = true ∧ t.faultCause = .badOperandLength ∧
      t.answer = some ⟨statusWord t, false⟩ ∧
      { t with faulted := s.faulted, faultCause := s.faultCause, answer := s.answer } = s

-- FAULTS, FRAMES AND WHOLE-MACHINE RULES

/-- R180, R183, R184: a command that takes a fault writes `FAULTED` and `FAULT_CAUSE`, with a cause that is not NONE, and answers
with STATUS; the span, IV, both schedules, every flag, the scratch state and the command index are as they were. -/
def Obligations.FaultsArePrecise : Prop :=
  ∀ (i : Instr) (s t : State), s.faulted = false → exec i s = .next t → t.faulted = true →
    t.faultCause ≠ .none ∧ t.answer = some ⟨statusWord t, false⟩ ∧
    { t with faulted := s.faulted, faultCause := s.faultCause, answer := s.answer } = s

/-- The frame of `NEW` and `FREE`: the build, the program, the reset input and every byte of the buffer stay, and a command that
completes leaves the fault bits. `NEW` leaves both schedules and IV; `FREE` leaves no field of the context. -/
def Obligations.FrameNewFree : Prop :=
  ∀ (i : Instr) (s t : State), (∃ code, i = .new code) ∨ i = .free → exec i s = .next t →
    SameHost s t ∧ SameBuffer s t ∧ (t.faulted = false → SameFault s t) ∧
    (i ≠ .free → t.fwd = s.fwd ∧ t.inv = s.inv ∧ t.iv = s.iv)

/-- The frame of `SET_KEY` and `SET_IV`: besides what both leave, `SET_KEY` leaves IV and IV_VALID, and `SET_IV` leaves KEYED,
NR and both schedules. -/
def Obligations.FrameSetKeySetIv : Prop :=
  ∀ (i : Instr) (s t : State), i = .setKey ∨ i = .setIv → exec i s = .next t →
    SameHost s t ∧ SameBuffer s t ∧ (t.faulted = false → SameFault s t) ∧
    t.ctxLive = s.ctxLive ∧ t.impl = s.impl ∧ t.alg = s.alg ∧
    (i = .setKey → t.iv = s.iv ∧ t.ivValid = s.ivValid) ∧
    (i = .setIv → t.keyed = s.keyed ∧ t.nr = s.nr ∧ t.fwd = s.fwd ∧ t.inv = s.inv)

/-- The frame of `ENCRYPT` and `DECRYPT` (R38, R164, R165): every field but IV, scratch state, the command index, the answer and
the fault bits stays, and so does every byte outside the blocks stored to, block `k` at offset `16k` for each `k` below the
span's number of blocks. -/
def Obligations.FrameEncryptDecrypt : Prop :=
  ∀ (i : Instr) (s t : State), i = .encrypt ∨ i = .decrypt → exec i s = .next t →
    SameHost s t ∧ t.len = s.len ∧ (t.faulted = false → SameFault s t) ∧
    t.ctxLive = s.ctxLive ∧ t.keyed = s.keyed ∧ t.ivValid = s.ivValid ∧ t.impl = s.impl ∧ t.alg = s.alg ∧ t.nr = s.nr ∧
    t.fwd = s.fwd ∧ t.inv = s.inv ∧
    ∀ a, (∀ k, k < spanBlocks s → ¬ (16 * k ≤ a ∧ a < 16 * k + 16)) → Memory.read t.mem a = Memory.read s.mem a

/-- R16 to R18, R24, R25, R138, R185: who writes the flags, the fault bit and the IV. `CTX_LIVE` is set by `NEW` and cleared by
`FREE` and reset; `KEYED` is set by `SET_KEY` and `IV_VALID` by `SET_IV`, and `NEW`, `FREE` and reset clear them; `FAULTED` is
set exactly by a command that breaks its contract, and cleared by reset; IV is changed by `SET_IV`, `ENCRYPT`, `DECRYPT`,
reset, and a `FREE` that ends the context. -/
def Obligations.FlagAndIvWriters : Prop :=
  ∀ s t : State, step s = .next t →
    (s.ctxLive = false → t.ctxLive = true → ∃ code, Takes s (.new code)) ∧
    (s.ctxLive = true → t.ctxLive = false → s.resetIn = .betweenCommands ∨ Takes s .free) ∧
    (s.keyed = false → t.keyed = true → Takes s .setKey) ∧
    (s.keyed = true → t.keyed = false → s.resetIn = .betweenCommands ∨ Takes s .free ∨ ∃ code, Takes s (.new code)) ∧
    (s.ivValid = false → t.ivValid = true → Takes s .setIv) ∧
    (s.ivValid = true → t.ivValid = false → s.resetIn = .betweenCommands ∨ Takes s .free ∨ ∃ code, Takes s (.new code)) ∧
    (s.faulted = false →
      (t.faulted = true ↔ s.resetIn = .released ∧ ∃ c, nextCommand s = some c ∧ BreaksContract c s)) ∧
    (s.faulted = true → t.faulted = false → s.resetIn = .betweenCommands) ∧
    (t.iv ≠ s.iv → s.resetIn = .betweenCommands ∨ Takes s .setIv ∨ Takes s .encrypt ∨ Takes s .decrypt ∨
      (Takes s .free ∧ t.ctxLive = false))

/-- R36, R146, R203: a step that keeps a context live keeps its path and its algorithm, and no step changes the build. -/
def Obligations.PathAndAlgorithmAreFixed : Prop :=
  ∀ s t : State, step s = .next t →
    t.cfg = s.cfg ∧ (s.ctxLive = true → t.ctxLive = true → t.impl = s.impl ∧ t.alg = s.alg)

/-- R26, R181, U11: every bit of STATUS: the fields where the table puts them, the reserved bits 0, and no cause code above 9; and
the numbers of the named fields: the cause codes 0 to 9 in the order of R181, the algorithm codes 0 to 6 in the order of
R63, and 0 for the portable and 1 for the hardware path (R19). -/
def Obligations.StatusWordLayout : Prop :=
  ∀ s : State,
    (statusWord s).extractLsb' 0 1 = BitVec.ofBool s.ctxLive ∧ (statusWord s).extractLsb' 1 1 = BitVec.ofBool s.keyed ∧
    (statusWord s).extractLsb' 2 1 = BitVec.ofBool s.ivValid ∧ (statusWord s).extractLsb' 3 1 = implBit s.impl ∧
    (statusWord s).extractLsb' 4 1 = BitVec.ofBool s.faulted ∧ (statusWord s).extractLsb' 5 3 = 0#3 ∧
    (statusWord s).extractLsb' 8 3 = algCode s.alg ∧ (statusWord s).extractLsb' 11 1 = 0#1 ∧
    (statusWord s).extractLsb' 12 4 = causeCode s.faultCause ∧ (statusWord s).extractLsb' 16 5 = s.nr ∧
    (statusWord s).extractLsb' 21 11 = 0#11 ∧ (causeCode s.faultCause).toNat ≤ 9 ∧
    [Cause.none, .illegalCommand, .noContext, .contextLive, .badKeyLength, .badIvLength, .notKeyed, .ivNotSet,
      .badSpanLength, .badOperandLength].map causeCode = [0#4, 1#4, 2#4, 3#4, 4#4, 5#4, 6#4, 7#4, 8#4, 9#4] ∧
    [Alg.aes128Cbc, .aes192Cbc, .aes256Cbc, .rijndaelCbc, .aes128Ctr, .aes192Ctr, .aes256Ctr].map algCode =
      [0#3, 1#3, 2#3, 3#3, 4#3, 5#3, 6#3] ∧
    implBit .portable = 0#1 ∧ implBit .hardware = 1#1

/-- R32, U9: the unwritten cells cannot be read. A block command on an unkeyed context gives the same result whatever `FWD`,
`INV` and IV hold, and one without a valid IV whatever IV holds; the cells themselves stay. -/
def Obligations.UnwrittenCellsAreUnread : Prop :=
  ∀ (i : Instr) (s t : State) (f g : Schedule) (v : Block), i = .encrypt ∨ i = .decrypt → exec i s = .next t →
    (s.keyed = false → exec i (withSecrets f g v s) = .next (withSecrets f g v t)) ∧
    (s.ivValid = false → exec i (withSecrets s.fwd s.inv v s) = .next (withSecrets t.fwd t.inv v t))

/-- R28, R30, R31: no answer's STATUS tells the host anything of the secret cells, of the scratch state or of the operand's bytes,
and no command but the block commands answers with any bytes: two states that differ in `FWD`, `INV`, IV, scratch state and
the buffer's bytes alone get the same answer. The bytes of a block command tell nothing of the scratch state either. -/
def Obligations.AnswersHideSecrets : Prop :=
  (∀ (i : Instr) (s : State) (f g : Schedule) (v : Block) (x : Scratch) (m : Memory) (t u : State),
    exec i s = .next t → exec i (withSecrets f g v { s with scratch := x, mem := m }) = .next u →
    u.answer = t.answer ∧ (i ≠ .encrypt → i ≠ .decrypt → answerBytes u = [] ∧ answerBytes t = [])) ∧
  ∀ (i : Instr) (s : State) (x : Scratch) (t u : State), exec i s = .next t → exec i { s with scratch := x } = .next u →
    answerBytes u = answerBytes t

-- THE ROMS AND GF(2^8)

/-- R80, C1: `xtime` on numbers, masked to 8 bits, and the rule's examples. -/
def Obligations.XtimeIsMasked : Prop :=
  (∀ x : Byte, (xtime x).toNat = ((2 * x.toNat) ^^^ (if 128 ≤ x.toNat then 0x1B else 0)) % 256) ∧
  xtime 0x57#8 = 0xAE#8 ∧ xtime 0x80#8 = 0x1B#8 ∧ xtime 0xFF#8 = 0xE5#8

/-- R81: `gmul` is a product: it commutes, distributes over addition, has the unit 1, and agrees with `xtime`. -/
def Obligations.GmulIsAProduct : Prop :=
  (∀ a b : Byte, gmul a b = gmul b a) ∧ (∀ a b c : Byte, gmul a (b ^^^ c) = gmul a b ^^^ gmul a c) ∧
  (∀ a : Byte, gmul 1#8 a = a ∧ gmul 2#8 a = xtime a ∧ gmul 3#8 a = xtime a ^^^ a) ∧
  gmul 0x57#8 0x83#8 = 0xC1#8 ∧ gmul 0x57#8 0x13#8 = 0xFE#8

/-- R84, R85, R86: `SBOX` is the affine map of the inverse in GF(2^8), and `SINV` undoes it. That `SBOX` undoes `SINV` too follows
from R86, `SBOX` being a permutation of the bytes. -/
def Obligations.SboxIsAffineOfInverse : Prop :=
  (∀ x : Byte, ∃ b : Byte, ((x = 0#8 ∧ b = 0#8) ∨ gmul x b = 1#8) ∧
    sbox x = b ^^^ b.rotateLeft 1 ^^^ b.rotateLeft 2 ^^^ b.rotateLeft 3 ^^^ b.rotateLeft 4 ^^^ 0x63#8) ∧
  (∀ x : Byte, sinv (sbox x) = x) ∧ (∀ x : Byte, sbox (sinv x) = x)

/-- R87 to R90: the T-tables' columns as the rules pack them. -/
def Obligations.TTableColumns : Prop :=
  (∀ b : Byte, e0 b = beU32 (gmul 2#8 (sbox b)) (sbox b) (sbox b) (gmul 3#8 (sbox b)) ∧
    e1 b = beU32 (gmul 3#8 (sbox b)) (gmul 2#8 (sbox b)) (sbox b) (sbox b) ∧
    e2 b = beU32 (sbox b) (gmul 3#8 (sbox b)) (gmul 2#8 (sbox b)) (sbox b) ∧
    e3 b = beU32 (sbox b) (sbox b) (gmul 3#8 (sbox b)) (gmul 2#8 (sbox b))) ∧
  (∀ b : Byte, d0 b = invMixColumn (beU32 (sinv b) 0#8 0#8 0#8) ∧ d1 b = invMixColumn (beU32 0#8 (sinv b) 0#8 0#8) ∧
    d2 b = invMixColumn (beU32 0#8 0#8 (sinv b) 0#8) ∧ d3 b = invMixColumn (beU32 0#8 0#8 0#8 (sinv b)))

/-- R83: `InvMixColumn` is the inverse of `MixColumn` on every word, both ways, and the rule's examples. -/
def Obligations.InvMixColumnInverts : Prop :=
  (∀ w : Word, invMixColumn (mixColumn w) = w ∧ mixColumn (invMixColumn w) = w) ∧
  mixColumn 0xDB135345#32 = 0x8E4DA1BC#32 ∧ invMixColumn 0x8E4DA1BC#32 = 0xDB135345#32

/-- R92: the two identities the construction relies on, for all bytes. -/
def Obligations.TTablesCollapseRound : Prop :=
  (∀ a0 a1 a2 a3 : Byte,
    e0 a0 ^^^ e1 a1 ^^^ e2 a2 ^^^ e3 a3 = mixColumn (beU32 (sbox a0) (sbox a1) (sbox a2) (sbox a3))) ∧
  (∀ a0 a1 a2 a3 : Byte,
    d0 (sbox a0) ^^^ d1 (sbox a1) ^^^ d2 (sbox a2) ^^^ d3 (sbox a3) = invMixColumn (beU32 a0 a1 a2 a3))

-- THE KEY SCHEDULE

/-- R102, R103, D9: the forward schedule's recurrence with the round constants at their uses, its first words from the key, and
zeros past the last round key. -/
def Obligations.ForwardScheduleRecurrence : Prop :=
  ∀ (key : List Byte) (nk : Nat), LegalNk nk →
    (∀ i, i < nk → schedWord (keyExpand key nk) i = keyWord key i) ∧
    (∀ i, nk ≤ i → i < 4 * (nk + 7) → schedWord (keyExpand key nk) i = schedWord (keyExpand key nk) (i - nk) ^^^
      (if i % nk = 0 then subWord (rotWord (schedWord (keyExpand key nk) (i - 1))) ^^^
          ((roundConstants.getD (i / nk - 1) 0#8).zeroExtend 32 <<< 24)
        else if nk = 8 ∧ i % 8 = 4 then subWord (schedWord (keyExpand key nk) (i - 1))
        else schedWord (keyExpand key nk) (i - 1))) ∧
    (∀ i, 4 * (nk + 7) ≤ i → schedWord (keyExpand key nk) i = 0#32)

/-- R104: the first bytes of the forward schedule are the key. -/
def Obligations.ScheduleBeginsWithKey : Prop :=
  ∀ (key : List Byte) (nk : Nat), LegalNk nk → key.length = 4 * nk →
    (List.range nk).flatMap (fun i => bytesBe (schedWord (keyExpand key nk) i)) = key

/-- R107: the inner rows of the inverse schedule are InvMixColumn of the forward round keys, in reverse. -/
def Obligations.InverseScheduleInnerRows : Prop :=
  ∀ (fwd : Schedule) (nr r j : Nat), nr ≤ 14 → 0 < r → r < nr → j < 4 →
    schedWord (invExpand fwd nr) (4 * r + j) = invMixColumn (schedWord fwd (4 * (nr - r) + j))

/-- R106, R108: the outer rows of the inverse schedule are the forward rows unchanged, in reverse, and the words past them are
zero (D9). -/
def Obligations.InverseScheduleOuterRows : Prop :=
  ∀ (fwd : Schedule) (nr j : Nat), 0 < nr → nr ≤ 14 → j < 4 →
    schedWord (invExpand fwd nr) j = schedWord fwd (4 * nr + j) ∧
    schedWord (invExpand fwd nr) (4 * nr + j) = schedWord fwd j ∧
    ∀ i, 4 * (nr + 1) ≤ i → schedWord (invExpand fwd nr) i = 0#32

/-- R110: the schedules depend on the key bytes alone: two live contexts given the same key, whatever their IVs, paths, modes and
earlier schedules, get the same schedules. -/
def Obligations.SchedulesDependOnKeyOnly : Prop :=
  ∀ s u : State, s.faulted = false → u.faulted = false → s.ctxLive = true → u.ctxLive = true →
    s.len = keyBytes s.alg → u.len = keyBytes u.alg → bufferBytes s = bufferBytes u →
    ∃ t v, exec .setKey s = .next t ∧ exec .setKey u = .next v ∧ t.fwd = v.fwd ∧ t.inv = v.inv ∧ t.nr = v.nr

-- THE ROUND ENGINE

/-- R116 to R121, R122: the T-table engine is the AES cipher written step by step, for every schedule and round count, and
decryption under the inverse schedule is its steps undone one by one under the forward schedule. What the engine does for a
round count other than 10, 12 or 14 is the model's choice (log entry 14). -/
def Obligations.EngineIsStepwiseAes : Prop :=
  (∀ (w : Schedule) (nr : Nat) (x : Block), ecbEnc w nr x = cipher w nr x) ∧
  (∀ (w : Schedule) (nr : Nat) (y : Block), 0 < nr → nr ≤ 14 → ecbDec (invExpand w nr) nr y = invCipher w nr y)

/-- R122: for every key of a legal length, decryption undoes encryption and encryption undoes decryption. -/
def Obligations.DecryptionInvertsEncryption : Prop :=
  ∀ (key : List Byte) (nk : Nat) (x : Block), LegalNk nk → key.length = 4 * nk →
    ecbDec (invExpand (keyExpand key nk) (nk + 6)) (nk + 6) (ecbEnc (keyExpand key nk) (nk + 6) x) = x ∧
    ecbEnc (keyExpand key nk) (nk + 6) (ecbDec (invExpand (keyExpand key nk) (nk + 6)) (nk + 6) x) = x

-- THE HARDWARE PATH

/-- R147, Q4: the two paths give identical bytes. Every command on two states that differ in `IMPL` alone leaves states that
agree on every field but `IMPL` and the answer; the answers carry the same bytes, and their STATUS words differ at most in
bit 3. That scratch state is among the fields that agree is no rule's (R31 leaves it unspecified): in the model its free
values depend on the draw alone (log entry 6). -/
def Obligations.PathsAreByteIdentical : Prop :=
  ∀ (i : Instr) (s t : State), exec i (withImpl .portable s) = .next t →
    ∃ u, exec i (withImpl .hardware s) = .next u ∧ { u with impl := t.impl, answer := t.answer } = t ∧
      answerBytes u = answerBytes t ∧ statusWord u ||| 8#32 = statusWord t ||| 8#32

/-- R151, R152, R153: the functions built from the AES instructions are those of the portable path, for every schedule, round
count, block and counter. -/
def Obligations.HardwareFunctionsArePortable : Prop :=
  (∀ (w : Schedule) (nr : Nat) (x : Block), hwEcbEnc w nr x = ecbEnc w nr x ∧ hwEcbDec w nr x = ecbDec w nr x) ∧
  (∀ (w : Schedule) (nr : Nat), hwInvExpand w nr = invExpand w nr) ∧ (∀ c : Block, hwCtrInc c = ctrInc c)

/-- R148, R149, R150: the key-assist primitive gives the forward schedule: applied to the row that holds the word before, with
the round constant of the use, its column at that word's place is what R102 adds; and for 256-bit keys its column 2 is what
the extra `SubWord` step adds, whatever the constant. -/
def Obligations.KeyAssistGivesSchedule : Prop :=
  ∀ (key : List Byte) (nk i : Nat) (imm : Byte), LegalNk nk → nk ≤ i → i < 4 * (nk + 7) →
    (i % nk = 0 → schedWord (keyExpand key nk) i = schedWord (keyExpand key nk) (i - nk) ^^^
      blockWord (aesKeyGenAssist (schedRow (keyExpand key nk) ((i - 1) / 4)) (roundConstants.getD (i / nk - 1) 0#8))
        ((i - 1) % 4)) ∧
    (nk = 8 → i % 8 = 4 → schedWord (keyExpand key nk) i = schedWord (keyExpand key nk) (i - nk) ^^^
      blockWord (aesKeyGenAssist (schedRow (keyExpand key nk) ((i - 1) / 4)) imm) 2)

-- THE MODES

/-- R135: the counter is one 128-bit big-endian number: it steps by one modulo 2^128, and byte-wise a byte steps exactly when
every byte after it is 0xFF. -/
def Obligations.CounterIncrement : Prop :=
  (∀ c : Block, (ctrInc c).toNat = (c.toNat + 1) % 2 ^ 128) ∧
  (∀ (c : Block) (i : Nat), i < 16 → blockByte (ctrInc c) i =
    blockByte c i + (if ∀ j : Fin 16, i < j.val → blockByte c j.val = 0xFF#8 then 1#8 else 0#8)) ∧
  ctrInc 0xff#128 = 0x100#128 ∧ ctrInc 0x0000000000000000ffffffffffffffff#128 = 0x00000000000000010000000000000000#128 ∧
  ctrInc 0xffffffffffffffffffffffffffffffff#128 = 0#128

/-- R122, R137, Q1: CBC round trip. In a keyed CBC context, `ENCRYPT` of a span and then `DECRYPT` of the result with the IV set
back give the span again, byte for byte, and so the other way round. -/
def Obligations.CbcRoundTrip : Prop :=
  ∀ s : State, BlockReady s → modeOf s.alg = .cbc → Inv s →
    (∃ t u, exec .encrypt s = .next t ∧ exec .decrypt (installIv s.iv t) = .next u ∧ u.mem = s.mem) ∧
    (∃ t u, exec .decrypt s = .next t ∧ exec .encrypt (installIv s.iv t) = .next u ∧ u.mem = s.mem)

/-- R136, Q2: in a CTR context `DECRYPT` is exactly `ENCRYPT`, and CTR is its own inverse when the IV is set back between the two
commands. That the two commands leave the same scratch state too is no rule's (R31 leaves it unspecified): in the model its
free values depend on the draw alone (log entry 6). -/
def Obligations.CtrIsItsOwnInverse : Prop :=
  (∀ s : State, modeOf s.alg = .ctr → exec .decrypt s = exec .encrypt s) ∧
  ∀ (i j : Instr) (s : State), i = .encrypt ∨ i = .decrypt → j = .encrypt ∨ j = .decrypt → BlockReady s →
    modeOf s.alg = .ctr → BufferInv s →
    ∃ t u, exec i s = .next t ∧ exec j (installIv s.iv t) = .next u ∧ u.mem = s.mem ∧ u.iv = t.iv

/-- R137, Q3: splitting invariance, for both commands in both modes: a span in one command, or cut at a block boundary into two
commands, gives the same bytes and the same final IV. -/
def Obligations.SplittingInvariance : Prop :=
  ∀ (i : Instr) (s : State) (p q : List Byte), i = .encrypt ∨ i = .decrypt → BlockReady (withBuffer (p ++ q) s) →
    p.length % 16 = 0 → q.length % 16 = 0 → (p = [] ∨ q = [] → s.cfg.zeroLen = .noop) →
    ∃ t u v, exec i (withBuffer (p ++ q) s) = .next t ∧ exec i (withBuffer p s) = .next u ∧
      exec i (withBuffer q u) = .next v ∧ bufferBytes t = bufferBytes u ++ bufferBytes v ∧ t.iv = v.iv
end

