-- ==== Sys2Proof/Laws/Bits.lean ====
section
/-! SUPPORT. The views of words and blocks undo each other. -/

namespace Sys2Proof.Machine

theorem wordByte_beU32 (b0 b1 b2 b3 : Byte) :
    wordByte (beU32 b0 b1 b2 b3) 0 = b0 ∧ wordByte (beU32 b0 b1 b2 b3) 1 = b1 ∧ wordByte (beU32 b0 b1 b2 b3) 2 = b2 ∧
      wordByte (beU32 b0 b1 b2 b3) 3 = b3 := by
  refine ⟨?_, ?_, ?_, ?_⟩ <;>
    (apply BitVec.eq_of_getLsbD_eq; intro i hi
     simp only [wordByte, beU32, BitVec.getLsbD_extractLsb', BitVec.getLsbD_append]
     interval_cases i <;> simp)

theorem beU32_wordByte (w : Word) : beU32 (wordByte w 0) (wordByte w 1) (wordByte w 2) (wordByte w 3) = w := by
  apply BitVec.eq_of_getLsbD_eq
  intro i hi
  simp only [wordByte, beU32, BitVec.getLsbD_extractLsb', BitVec.getLsbD_append]
  interval_cases i <;> simp

theorem colsOfBlock_blockOfCols (s : Cols) : colsOfBlock (blockOfCols s) = s := by
  obtain ⟨a, b, c, d⟩ := s
  simp only [colsOfBlock, blockOfCols, Cols.mk.injEq]
  refine ⟨?_, ?_, ?_, ?_⟩ <;>
    (apply BitVec.eq_of_getLsbD_eq; intro i hi
     simp only [blockWord, BitVec.getLsbD_extractLsb', BitVec.getLsbD_append]
     interval_cases i <;> simp)

theorem blockOfCols_colsOfBlock (x : Block) : blockOfCols (colsOfBlock x) = x := by
  apply BitVec.eq_of_getLsbD_eq
  intro i hi
  simp only [colsOfBlock, blockOfCols, blockWord, BitVec.getLsbD_extractLsb', BitVec.getLsbD_append]
  interval_cases i <;> simp

theorem bytesOfBlock_length (x : Block) : (bytesOfBlock x).length = 16 := by simp [bytesOfBlock]

theorem bytesOfBlock_getD (x : Block) (i : Nat) (h : i < 16) : (bytesOfBlock x).getD i 0#8 = blockByte x i := by
  simp [bytesOfBlock, h]

/-- A block is determined by its 16 bytes. -/
theorem block_ext {x y : Block} (h : ∀ i, i < 16 → blockByte x i = blockByte y i) : x = y := by
  apply BitVec.eq_of_getLsbD_eq
  intro k hk
  have hb := congrArg (fun b : Byte => b.getLsbD (k % 8)) (h (15 - k / 8) (by omega))
  simp only [blockByte, BitVec.getLsbD_extractLsb'] at hb
  rw [show 120 - 8 * (15 - k / 8) + k % 8 = k by omega] at hb
  simpa [Nat.mod_lt] using hb

/-- The bits of a number built byte by byte, most significant first. -/
theorem foldBytes_getLsbD (bs : List Byte) (acc : Block) (k : Nat) (hk : k < 128) :
    (bs.foldl pushByte acc).getLsbD k =
      if k < 8 * bs.length then (bs.getD (bs.length - 1 - k / 8) 0#8).getLsbD (k % 8)
      else acc.getLsbD (k - 8 * bs.length) := by
  induction bs generalizing acc with
  | nil => simp
  | cons b bs ih =>
    rw [List.foldl_cons, ih]
    simp only [List.length_cons]
    by_cases h1 : k < 8 * bs.length
    · have h2 : k < 8 * (bs.length + 1) := by omega
      rw [if_pos h1, if_pos h2, show bs.length + 1 - 1 - k / 8 = (bs.length - 1 - k / 8) + 1 by omega]
      simp
    · rw [if_neg h1]
      simp only [pushByte, BitVec.getLsbD_or, BitVec.getLsbD_shiftLeft, BitVec.truncate_eq_setWidth,
        BitVec.getLsbD_setWidth]
      by_cases h2 : k < 8 * (bs.length + 1)
      · rw [if_pos h2, show bs.length + 1 - 1 - k / 8 = 0 by omega, show k % 8 = k - 8 * bs.length by omega]
        have h3 : k - 8 * bs.length < 8 := by omega
        simp [h3]
        omega
      · rw [if_neg h2, show k - 8 * (bs.length + 1) = k - 8 * bs.length - 8 by omega]
        have h3 : ¬ k - 8 * bs.length < 8 := by omega
        have h4 : k - 8 * bs.length < 128 := by omega
        have h5 : b.getLsbD (k - 8 * bs.length) = false := BitVec.getLsbD_of_ge _ _ (by omega)
        simp [h3, h4, h5]

/-- Byte `i` of the block of 16 bytes. -/
theorem blockByte_blockOfBytes {bs : List Byte} (hl : bs.length = 16) (i : Nat) (h : i < 16) :
    blockByte (blockOfBytes bs) i = bs.getD i 0#8 := by
  apply BitVec.eq_of_getLsbD_eq
  intro j hj
  have htake : bs.take 16 = bs := List.take_of_length_le (by omega)
  simp only [blockByte, blockOfBytes, htake, BitVec.getLsbD_extractLsb', hj, decide_true, Bool.true_and]
  rw [foldBytes_getLsbD _ _ _ (by omega), if_pos (by omega), hl]
  rw [show 16 - 1 - (120 - 8 * i + j) / 8 = i by omega, show (120 - 8 * i + j) % 8 = j by omega]

/-- Bytes and block are one datum. -/
theorem blockOfBytes_bytesOfBlock (x : Block) : blockOfBytes (bytesOfBlock x) = x :=
  block_ext fun i h => by rw [blockByte_blockOfBytes (bytesOfBlock_length x) i h, bytesOfBlock_getD x i h]

end Sys2Proof.Machine
end

