-- ==== Sys2Proof/Laws/State.lean ====
section
/-! SUPPORT. What each named update of the state does to each field, one lemma a field. -/

namespace Sys2Proof.Machine

variable (s : State)

-- answerWith

@[simp] theorem answerWith_cfg (b : Bool) : (answerWith b s).cfg = s.cfg := rfl
@[simp] theorem answerWith_prog (b : Bool) : (answerWith b s).prog = s.prog := rfl
@[simp] theorem answerWith_pc (b : Bool) : (answerWith b s).pc = s.pc := rfl
@[simp] theorem answerWith_resetIn (b : Bool) : (answerWith b s).resetIn = s.resetIn := rfl
@[simp] theorem answerWith_mem (b : Bool) : (answerWith b s).mem = s.mem := rfl
@[simp] theorem answerWith_len (b : Bool) : (answerWith b s).len = s.len := rfl
@[simp] theorem answerWith_answer (b : Bool) : (answerWith b s).answer = some ⟨statusWord s, b⟩ := rfl
@[simp] theorem answerWith_ctxLive (b : Bool) : (answerWith b s).ctxLive = s.ctxLive := rfl
@[simp] theorem answerWith_keyed (b : Bool) : (answerWith b s).keyed = s.keyed := rfl
@[simp] theorem answerWith_ivValid (b : Bool) : (answerWith b s).ivValid = s.ivValid := rfl
@[simp] theorem answerWith_impl (b : Bool) : (answerWith b s).impl = s.impl := rfl
@[simp] theorem answerWith_alg (b : Bool) : (answerWith b s).alg = s.alg := rfl
@[simp] theorem answerWith_nr (b : Bool) : (answerWith b s).nr = s.nr := rfl
@[simp] theorem answerWith_fwd (b : Bool) : (answerWith b s).fwd = s.fwd := rfl
@[simp] theorem answerWith_inv (b : Bool) : (answerWith b s).inv = s.inv := rfl
@[simp] theorem answerWith_iv (b : Bool) : (answerWith b s).iv = s.iv := rfl
@[simp] theorem answerWith_faulted (b : Bool) : (answerWith b s).faulted = s.faulted := rfl
@[simp] theorem answerWith_faultCause (b : Bool) : (answerWith b s).faultCause = s.faultCause := rfl
@[simp] theorem answerWith_scratch (b : Bool) : (answerWith b s).scratch = s.scratch := rfl
@[simp] theorem answerWith_freeCtr (b : Bool) : (answerWith b s).freeCtr = s.freeCtr := rfl

-- raiseFault

@[simp] theorem raiseFault_cfg (c : Cause) : (raiseFault c s).cfg = s.cfg := rfl
@[simp] theorem raiseFault_prog (c : Cause) : (raiseFault c s).prog = s.prog := rfl
@[simp] theorem raiseFault_pc (c : Cause) : (raiseFault c s).pc = s.pc := rfl
@[simp] theorem raiseFault_resetIn (c : Cause) : (raiseFault c s).resetIn = s.resetIn := rfl
@[simp] theorem raiseFault_mem (c : Cause) : (raiseFault c s).mem = s.mem := rfl
@[simp] theorem raiseFault_len (c : Cause) : (raiseFault c s).len = s.len := rfl
@[simp] theorem raiseFault_ctxLive (c : Cause) : (raiseFault c s).ctxLive = s.ctxLive := rfl
@[simp] theorem raiseFault_keyed (c : Cause) : (raiseFault c s).keyed = s.keyed := rfl
@[simp] theorem raiseFault_ivValid (c : Cause) : (raiseFault c s).ivValid = s.ivValid := rfl
@[simp] theorem raiseFault_impl (c : Cause) : (raiseFault c s).impl = s.impl := rfl
@[simp] theorem raiseFault_alg (c : Cause) : (raiseFault c s).alg = s.alg := rfl
@[simp] theorem raiseFault_nr (c : Cause) : (raiseFault c s).nr = s.nr := rfl
@[simp] theorem raiseFault_fwd (c : Cause) : (raiseFault c s).fwd = s.fwd := rfl
@[simp] theorem raiseFault_inv (c : Cause) : (raiseFault c s).inv = s.inv := rfl
@[simp] theorem raiseFault_iv (c : Cause) : (raiseFault c s).iv = s.iv := rfl
@[simp] theorem raiseFault_faulted (c : Cause) : (raiseFault c s).faulted = true := rfl
@[simp] theorem raiseFault_faultCause (c : Cause) : (raiseFault c s).faultCause = c := rfl
@[simp] theorem raiseFault_scratch (c : Cause) : (raiseFault c s).scratch = s.scratch := rfl
@[simp] theorem raiseFault_freeCtr (c : Cause) : (raiseFault c s).freeCtr = s.freeCtr := rfl

-- ignoreCommand

@[simp] theorem ignoreCommand_cfg : (ignoreCommand s).cfg = s.cfg := rfl
@[simp] theorem ignoreCommand_prog : (ignoreCommand s).prog = s.prog := rfl
@[simp] theorem ignoreCommand_pc : (ignoreCommand s).pc = s.pc := rfl
@[simp] theorem ignoreCommand_resetIn : (ignoreCommand s).resetIn = s.resetIn := rfl
@[simp] theorem ignoreCommand_mem : (ignoreCommand s).mem = s.mem := rfl
@[simp] theorem ignoreCommand_len : (ignoreCommand s).len = s.len := rfl
@[simp] theorem ignoreCommand_answer : (ignoreCommand s).answer = some ⟨statusWord s, false⟩ := rfl
@[simp] theorem ignoreCommand_ctxLive : (ignoreCommand s).ctxLive = s.ctxLive := rfl
@[simp] theorem ignoreCommand_keyed : (ignoreCommand s).keyed = s.keyed := rfl
@[simp] theorem ignoreCommand_ivValid : (ignoreCommand s).ivValid = s.ivValid := rfl
@[simp] theorem ignoreCommand_impl : (ignoreCommand s).impl = s.impl := rfl
@[simp] theorem ignoreCommand_alg : (ignoreCommand s).alg = s.alg := rfl
@[simp] theorem ignoreCommand_nr : (ignoreCommand s).nr = s.nr := rfl
@[simp] theorem ignoreCommand_fwd : (ignoreCommand s).fwd = s.fwd := rfl
@[simp] theorem ignoreCommand_inv : (ignoreCommand s).inv = s.inv := rfl
@[simp] theorem ignoreCommand_iv : (ignoreCommand s).iv = s.iv := rfl
@[simp] theorem ignoreCommand_faulted : (ignoreCommand s).faulted = s.faulted := rfl
@[simp] theorem ignoreCommand_faultCause : (ignoreCommand s).faultCause = s.faultCause := rfl
@[simp] theorem ignoreCommand_scratch : (ignoreCommand s).scratch = s.scratch := rfl
@[simp] theorem ignoreCommand_freeCtr : (ignoreCommand s).freeCtr = s.freeCtr := rfl

-- complete

@[simp] theorem complete_cfg (sc : Scratch) (b : Bool) : (complete sc b s).cfg = s.cfg := rfl
@[simp] theorem complete_prog (sc : Scratch) (b : Bool) : (complete sc b s).prog = s.prog := rfl
@[simp] theorem complete_pc (sc : Scratch) (b : Bool) : (complete sc b s).pc = s.pc + 1 := rfl
@[simp] theorem complete_resetIn (sc : Scratch) (b : Bool) : (complete sc b s).resetIn = s.resetIn := rfl
@[simp] theorem complete_mem (sc : Scratch) (b : Bool) : (complete sc b s).mem = s.mem := rfl
@[simp] theorem complete_len (sc : Scratch) (b : Bool) : (complete sc b s).len = s.len := rfl
@[simp] theorem complete_ctxLive (sc : Scratch) (b : Bool) : (complete sc b s).ctxLive = s.ctxLive := rfl
@[simp] theorem complete_keyed (sc : Scratch) (b : Bool) : (complete sc b s).keyed = s.keyed := rfl
@[simp] theorem complete_ivValid (sc : Scratch) (b : Bool) : (complete sc b s).ivValid = s.ivValid := rfl
@[simp] theorem complete_impl (sc : Scratch) (b : Bool) : (complete sc b s).impl = s.impl := rfl
@[simp] theorem complete_alg (sc : Scratch) (b : Bool) : (complete sc b s).alg = s.alg := rfl
@[simp] theorem complete_nr (sc : Scratch) (b : Bool) : (complete sc b s).nr = s.nr := rfl
@[simp] theorem complete_fwd (sc : Scratch) (b : Bool) : (complete sc b s).fwd = s.fwd := rfl
@[simp] theorem complete_inv (sc : Scratch) (b : Bool) : (complete sc b s).inv = s.inv := rfl
@[simp] theorem complete_iv (sc : Scratch) (b : Bool) : (complete sc b s).iv = s.iv := rfl
@[simp] theorem complete_faulted (sc : Scratch) (b : Bool) : (complete sc b s).faulted = s.faulted := rfl
@[simp] theorem complete_faultCause (sc : Scratch) (b : Bool) : (complete sc b s).faultCause = s.faultCause := rfl
@[simp] theorem complete_scratch (sc : Scratch) (b : Bool) : (complete sc b s).scratch = sc := rfl
@[simp] theorem complete_freeCtr (sc : Scratch) (b : Bool) : (complete sc b s).freeCtr = s.freeCtr + 1 := rfl

-- placeOperand

@[simp] theorem placeOperand_cfg (c : Command) : (placeOperand c s).cfg = s.cfg := rfl
@[simp] theorem placeOperand_prog (c : Command) : (placeOperand c s).prog = s.prog := rfl
@[simp] theorem placeOperand_pc (c : Command) : (placeOperand c s).pc = s.pc := rfl
@[simp] theorem placeOperand_resetIn (c : Command) : (placeOperand c s).resetIn = s.resetIn := rfl
@[simp] theorem placeOperand_mem (c : Command) : (placeOperand c s).mem = Memory.ofBytes c.operand := rfl
@[simp] theorem placeOperand_len (c : Command) : (placeOperand c s).len = c.operand.length := rfl
@[simp] theorem placeOperand_answer (c : Command) : (placeOperand c s).answer = s.answer := rfl
@[simp] theorem placeOperand_ctxLive (c : Command) : (placeOperand c s).ctxLive = s.ctxLive := rfl
@[simp] theorem placeOperand_keyed (c : Command) : (placeOperand c s).keyed = s.keyed := rfl
@[simp] theorem placeOperand_ivValid (c : Command) : (placeOperand c s).ivValid = s.ivValid := rfl
@[simp] theorem placeOperand_impl (c : Command) : (placeOperand c s).impl = s.impl := rfl
@[simp] theorem placeOperand_alg (c : Command) : (placeOperand c s).alg = s.alg := rfl
@[simp] theorem placeOperand_nr (c : Command) : (placeOperand c s).nr = s.nr := rfl
@[simp] theorem placeOperand_fwd (c : Command) : (placeOperand c s).fwd = s.fwd := rfl
@[simp] theorem placeOperand_inv (c : Command) : (placeOperand c s).inv = s.inv := rfl
@[simp] theorem placeOperand_iv (c : Command) : (placeOperand c s).iv = s.iv := rfl
@[simp] theorem placeOperand_faulted (c : Command) : (placeOperand c s).faulted = s.faulted := rfl
@[simp] theorem placeOperand_faultCause (c : Command) : (placeOperand c s).faultCause = s.faultCause := rfl
@[simp] theorem placeOperand_scratch (c : Command) : (placeOperand c s).scratch = s.scratch := rfl
@[simp] theorem placeOperand_freeCtr (c : Command) : (placeOperand c s).freeCtr = s.freeCtr := rfl

-- createContext

@[simp] theorem createContext_cfg (a : Alg) : (createContext a s).cfg = s.cfg := rfl
@[simp] theorem createContext_prog (a : Alg) : (createContext a s).prog = s.prog := rfl
@[simp] theorem createContext_pc (a : Alg) : (createContext a s).pc = s.pc := rfl
@[simp] theorem createContext_resetIn (a : Alg) : (createContext a s).resetIn = s.resetIn := rfl
@[simp] theorem createContext_mem (a : Alg) : (createContext a s).mem = s.mem := rfl
@[simp] theorem createContext_len (a : Alg) : (createContext a s).len = s.len := rfl
@[simp] theorem createContext_answer (a : Alg) : (createContext a s).answer = s.answer := rfl
@[simp] theorem createContext_ctxLive (a : Alg) : (createContext a s).ctxLive = true := rfl
@[simp] theorem createContext_keyed (a : Alg) : (createContext a s).keyed = false := rfl
@[simp] theorem createContext_ivValid (a : Alg) : (createContext a s).ivValid = false := rfl
@[simp] theorem createContext_impl (a : Alg) : (createContext a s).impl = selectImpl s.cfg := rfl
@[simp] theorem createContext_alg (a : Alg) : (createContext a s).alg = a := rfl
@[simp] theorem createContext_nr (a : Alg) : (createContext a s).nr = 0#5 := rfl
@[simp] theorem createContext_fwd (a : Alg) : (createContext a s).fwd = s.fwd := rfl
@[simp] theorem createContext_inv (a : Alg) : (createContext a s).inv = s.inv := rfl
@[simp] theorem createContext_iv (a : Alg) : (createContext a s).iv = s.iv := rfl
@[simp] theorem createContext_faulted (a : Alg) : (createContext a s).faulted = s.faulted := rfl
@[simp] theorem createContext_faultCause (a : Alg) : (createContext a s).faultCause = s.faultCause := rfl
@[simp] theorem createContext_scratch (a : Alg) : (createContext a s).scratch = s.scratch := rfl
@[simp] theorem createContext_freeCtr (a : Alg) : (createContext a s).freeCtr = s.freeCtr := rfl

-- wipeContext

@[simp] theorem wipeContext_cfg : (wipeContext s).cfg = s.cfg := rfl
@[simp] theorem wipeContext_prog : (wipeContext s).prog = s.prog := rfl
@[simp] theorem wipeContext_pc : (wipeContext s).pc = s.pc := rfl
@[simp] theorem wipeContext_resetIn : (wipeContext s).resetIn = s.resetIn := rfl
@[simp] theorem wipeContext_mem : (wipeContext s).mem = s.mem := rfl
@[simp] theorem wipeContext_len : (wipeContext s).len = s.len := rfl
@[simp] theorem wipeContext_answer : (wipeContext s).answer = s.answer := rfl
@[simp] theorem wipeContext_ctxLive : (wipeContext s).ctxLive = false := rfl
@[simp] theorem wipeContext_keyed : (wipeContext s).keyed = false := rfl
@[simp] theorem wipeContext_ivValid : (wipeContext s).ivValid = false := rfl
@[simp] theorem wipeContext_impl : (wipeContext s).impl = .portable := rfl
@[simp] theorem wipeContext_alg : (wipeContext s).alg = .aes128Cbc := rfl
@[simp] theorem wipeContext_nr : (wipeContext s).nr = 0#5 := rfl
@[simp] theorem wipeContext_fwd : (wipeContext s).fwd = Schedule.zero := rfl
@[simp] theorem wipeContext_inv : (wipeContext s).inv = Schedule.zero := rfl
@[simp] theorem wipeContext_iv : (wipeContext s).iv = 0#128 := rfl
@[simp] theorem wipeContext_faulted : (wipeContext s).faulted = s.faulted := rfl
@[simp] theorem wipeContext_faultCause : (wipeContext s).faultCause = s.faultCause := rfl
@[simp] theorem wipeContext_scratch : (wipeContext s).scratch = s.scratch := rfl
@[simp] theorem wipeContext_freeCtr : (wipeContext s).freeCtr = s.freeCtr := rfl

-- installKey

@[simp] theorem installKey_cfg (key : List Byte) (nk : Nat) : (installKey key nk s).cfg = s.cfg := rfl
@[simp] theorem installKey_prog (key : List Byte) (nk : Nat) : (installKey key nk s).prog = s.prog := rfl
@[simp] theorem installKey_pc (key : List Byte) (nk : Nat) : (installKey key nk s).pc = s.pc := rfl
@[simp] theorem installKey_resetIn (key : List Byte) (nk : Nat) : (installKey key nk s).resetIn = s.resetIn := rfl
@[simp] theorem installKey_mem (key : List Byte) (nk : Nat) : (installKey key nk s).mem = s.mem := rfl
@[simp] theorem installKey_len (key : List Byte) (nk : Nat) : (installKey key nk s).len = s.len := rfl
@[simp] theorem installKey_answer (key : List Byte) (nk : Nat) : (installKey key nk s).answer = s.answer := rfl
@[simp] theorem installKey_ctxLive (key : List Byte) (nk : Nat) : (installKey key nk s).ctxLive = s.ctxLive := rfl
@[simp] theorem installKey_keyed (key : List Byte) (nk : Nat) : (installKey key nk s).keyed = true := rfl
@[simp] theorem installKey_ivValid (key : List Byte) (nk : Nat) : (installKey key nk s).ivValid = s.ivValid := rfl
@[simp] theorem installKey_impl (key : List Byte) (nk : Nat) : (installKey key nk s).impl = s.impl := rfl
@[simp] theorem installKey_alg (key : List Byte) (nk : Nat) : (installKey key nk s).alg = s.alg := rfl
@[simp] theorem installKey_nr (key : List Byte) (nk : Nat) : (installKey key nk s).nr = BitVec.ofNat 5 (nk + 6) := rfl
@[simp] theorem installKey_fwd (key : List Byte) (nk : Nat) : (installKey key nk s).fwd = keyExpand key nk := rfl
@[simp] theorem installKey_inv (key : List Byte) (nk : Nat) : (installKey key nk s).inv = pathInvExpand s.impl (keyExpand key nk) (nk + 6) := rfl
@[simp] theorem installKey_iv (key : List Byte) (nk : Nat) : (installKey key nk s).iv = s.iv := rfl
@[simp] theorem installKey_faulted (key : List Byte) (nk : Nat) : (installKey key nk s).faulted = s.faulted := rfl
@[simp] theorem installKey_faultCause (key : List Byte) (nk : Nat) : (installKey key nk s).faultCause = s.faultCause := rfl
@[simp] theorem installKey_scratch (key : List Byte) (nk : Nat) : (installKey key nk s).scratch = s.scratch := rfl
@[simp] theorem installKey_freeCtr (key : List Byte) (nk : Nat) : (installKey key nk s).freeCtr = s.freeCtr := rfl

-- installIv

@[simp] theorem installIv_cfg (v : Block) : (installIv v s).cfg = s.cfg := rfl
@[simp] theorem installIv_prog (v : Block) : (installIv v s).prog = s.prog := rfl
@[simp] theorem installIv_pc (v : Block) : (installIv v s).pc = s.pc := rfl
@[simp] theorem installIv_resetIn (v : Block) : (installIv v s).resetIn = s.resetIn := rfl
@[simp] theorem installIv_mem (v : Block) : (installIv v s).mem = s.mem := rfl
@[simp] theorem installIv_len (v : Block) : (installIv v s).len = s.len := rfl
@[simp] theorem installIv_answer (v : Block) : (installIv v s).answer = s.answer := rfl
@[simp] theorem installIv_ctxLive (v : Block) : (installIv v s).ctxLive = s.ctxLive := rfl
@[simp] theorem installIv_keyed (v : Block) : (installIv v s).keyed = s.keyed := rfl
@[simp] theorem installIv_ivValid (v : Block) : (installIv v s).ivValid = true := rfl
@[simp] theorem installIv_impl (v : Block) : (installIv v s).impl = s.impl := rfl
@[simp] theorem installIv_alg (v : Block) : (installIv v s).alg = s.alg := rfl
@[simp] theorem installIv_nr (v : Block) : (installIv v s).nr = s.nr := rfl
@[simp] theorem installIv_fwd (v : Block) : (installIv v s).fwd = s.fwd := rfl
@[simp] theorem installIv_inv (v : Block) : (installIv v s).inv = s.inv := rfl
@[simp] theorem installIv_iv (v : Block) : (installIv v s).iv = v := rfl
@[simp] theorem installIv_faulted (v : Block) : (installIv v s).faulted = s.faulted := rfl
@[simp] theorem installIv_faultCause (v : Block) : (installIv v s).faultCause = s.faultCause := rfl
@[simp] theorem installIv_scratch (v : Block) : (installIv v s).scratch = s.scratch := rfl
@[simp] theorem installIv_freeCtr (v : Block) : (installIv v s).freeCtr = s.freeCtr := rfl

-- writeSpan

@[simp] theorem writeSpan_cfg (r : Memory × Block) : (writeSpan r s).cfg = s.cfg := rfl
@[simp] theorem writeSpan_prog (r : Memory × Block) : (writeSpan r s).prog = s.prog := rfl
@[simp] theorem writeSpan_pc (r : Memory × Block) : (writeSpan r s).pc = s.pc := rfl
@[simp] theorem writeSpan_resetIn (r : Memory × Block) : (writeSpan r s).resetIn = s.resetIn := rfl
@[simp] theorem writeSpan_mem (r : Memory × Block) : (writeSpan r s).mem = r.1 := rfl
@[simp] theorem writeSpan_len (r : Memory × Block) : (writeSpan r s).len = s.len := rfl
@[simp] theorem writeSpan_answer (r : Memory × Block) : (writeSpan r s).answer = s.answer := rfl
@[simp] theorem writeSpan_ctxLive (r : Memory × Block) : (writeSpan r s).ctxLive = s.ctxLive := rfl
@[simp] theorem writeSpan_keyed (r : Memory × Block) : (writeSpan r s).keyed = s.keyed := rfl
@[simp] theorem writeSpan_ivValid (r : Memory × Block) : (writeSpan r s).ivValid = s.ivValid := rfl
@[simp] theorem writeSpan_impl (r : Memory × Block) : (writeSpan r s).impl = s.impl := rfl
@[simp] theorem writeSpan_alg (r : Memory × Block) : (writeSpan r s).alg = s.alg := rfl
@[simp] theorem writeSpan_nr (r : Memory × Block) : (writeSpan r s).nr = s.nr := rfl
@[simp] theorem writeSpan_fwd (r : Memory × Block) : (writeSpan r s).fwd = s.fwd := rfl
@[simp] theorem writeSpan_inv (r : Memory × Block) : (writeSpan r s).inv = s.inv := rfl
@[simp] theorem writeSpan_iv (r : Memory × Block) : (writeSpan r s).iv = r.2 := rfl
@[simp] theorem writeSpan_faulted (r : Memory × Block) : (writeSpan r s).faulted = s.faulted := rfl
@[simp] theorem writeSpan_faultCause (r : Memory × Block) : (writeSpan r s).faultCause = s.faultCause := rfl
@[simp] theorem writeSpan_scratch (r : Memory × Block) : (writeSpan r s).scratch = s.scratch := rfl
@[simp] theorem writeSpan_freeCtr (r : Memory × Block) : (writeSpan r s).freeCtr = s.freeCtr := rfl

-- hardwareReset

@[simp] theorem hardwareReset_cfg : (hardwareReset s).cfg = s.cfg := rfl
@[simp] theorem hardwareReset_prog : (hardwareReset s).prog = s.prog := rfl
@[simp] theorem hardwareReset_pc : (hardwareReset s).pc = 0 := rfl
@[simp] theorem hardwareReset_resetIn : (hardwareReset s).resetIn = .released := rfl
@[simp] theorem hardwareReset_mem : (hardwareReset s).mem = s.mem := rfl
@[simp] theorem hardwareReset_len : (hardwareReset s).len = s.len := rfl
@[simp] theorem hardwareReset_answer : (hardwareReset s).answer = none := rfl
@[simp] theorem hardwareReset_ctxLive : (hardwareReset s).ctxLive = false := rfl
@[simp] theorem hardwareReset_keyed : (hardwareReset s).keyed = false := rfl
@[simp] theorem hardwareReset_ivValid : (hardwareReset s).ivValid = false := rfl
@[simp] theorem hardwareReset_impl : (hardwareReset s).impl = .portable := rfl
@[simp] theorem hardwareReset_alg : (hardwareReset s).alg = .aes128Cbc := rfl
@[simp] theorem hardwareReset_nr : (hardwareReset s).nr = 0#5 := rfl
@[simp] theorem hardwareReset_fwd : (hardwareReset s).fwd = Schedule.zero := rfl
@[simp] theorem hardwareReset_inv : (hardwareReset s).inv = Schedule.zero := rfl
@[simp] theorem hardwareReset_iv : (hardwareReset s).iv = 0#128 := rfl
@[simp] theorem hardwareReset_faulted : (hardwareReset s).faulted = false := rfl
@[simp] theorem hardwareReset_faultCause : (hardwareReset s).faultCause = .none := rfl
@[simp] theorem hardwareReset_scratch : (hardwareReset s).scratch = Scratch.zero := rfl
@[simp] theorem hardwareReset_freeCtr : (hardwareReset s).freeCtr = s.freeCtr := rfl

/-- An answer does not change what STATUS reads. -/
@[simp] theorem answerWith_status (b : Bool) : statusWord (answerWith b s) = statusWord s := rfl

/-- The answer to a fault is the STATUS word the fault leaves. -/
theorem raiseFault_answer (c : Cause) : (raiseFault c s).answer = some ⟨statusWord (raiseFault c s), false⟩ := rfl

/-- The answer to a completed command is the STATUS word the command leaves. -/
theorem complete_answer (sc : Scratch) (b : Bool) :
    (complete sc b s).answer = some ⟨statusWord (complete sc b s), b⟩ := rfl

/-- Completing a command changes nothing STATUS shows. -/
@[simp] theorem complete_status (sc : Scratch) (b : Bool) : statusWord (complete sc b s) = statusWord s := rfl

/-- A zero schedule reads 0 at every index. -/
@[simp] theorem schedWord_zero (i : Nat) : schedWord Schedule.zero i = 0#32 := by
  by_cases h : i < 60 <;> simp [schedWord, Schedule.zero, Vector.getD, h]

-- encryptSpan: every field but the span and IV stays

@[simp] theorem encryptSpan_cfg : (encryptSpan s).cfg = s.cfg := by
  unfold encryptSpan; cases modeOf s.alg <;> rfl
@[simp] theorem encryptSpan_prog : (encryptSpan s).prog = s.prog := by
  unfold encryptSpan; cases modeOf s.alg <;> rfl
@[simp] theorem encryptSpan_pc : (encryptSpan s).pc = s.pc := by
  unfold encryptSpan; cases modeOf s.alg <;> rfl
@[simp] theorem encryptSpan_resetIn : (encryptSpan s).resetIn = s.resetIn := by
  unfold encryptSpan; cases modeOf s.alg <;> rfl
@[simp] theorem encryptSpan_len : (encryptSpan s).len = s.len := by
  unfold encryptSpan; cases modeOf s.alg <;> rfl
@[simp] theorem encryptSpan_answer : (encryptSpan s).answer = s.answer := by
  unfold encryptSpan; cases modeOf s.alg <;> rfl
@[simp] theorem encryptSpan_ctxLive : (encryptSpan s).ctxLive = s.ctxLive := by
  unfold encryptSpan; cases modeOf s.alg <;> rfl
@[simp] theorem encryptSpan_keyed : (encryptSpan s).keyed = s.keyed := by
  unfold encryptSpan; cases modeOf s.alg <;> rfl
@[simp] theorem encryptSpan_ivValid : (encryptSpan s).ivValid = s.ivValid := by
  unfold encryptSpan; cases modeOf s.alg <;> rfl
@[simp] theorem encryptSpan_impl : (encryptSpan s).impl = s.impl := by
  unfold encryptSpan; cases modeOf s.alg <;> rfl
@[simp] theorem encryptSpan_alg : (encryptSpan s).alg = s.alg := by
  unfold encryptSpan; cases modeOf s.alg <;> rfl
@[simp] theorem encryptSpan_nr : (encryptSpan s).nr = s.nr := by
  unfold encryptSpan; cases modeOf s.alg <;> rfl
@[simp] theorem encryptSpan_fwd : (encryptSpan s).fwd = s.fwd := by
  unfold encryptSpan; cases modeOf s.alg <;> rfl
@[simp] theorem encryptSpan_inv : (encryptSpan s).inv = s.inv := by
  unfold encryptSpan; cases modeOf s.alg <;> rfl
@[simp] theorem encryptSpan_faulted : (encryptSpan s).faulted = s.faulted := by
  unfold encryptSpan; cases modeOf s.alg <;> rfl
@[simp] theorem encryptSpan_faultCause : (encryptSpan s).faultCause = s.faultCause := by
  unfold encryptSpan; cases modeOf s.alg <;> rfl
@[simp] theorem encryptSpan_scratch : (encryptSpan s).scratch = s.scratch := by
  unfold encryptSpan; cases modeOf s.alg <;> rfl
@[simp] theorem encryptSpan_freeCtr : (encryptSpan s).freeCtr = s.freeCtr := by
  unfold encryptSpan; cases modeOf s.alg <;> rfl

-- decryptSpan: every field but the span and IV stays

@[simp] theorem decryptSpan_cfg : (decryptSpan s).cfg = s.cfg := by
  unfold decryptSpan; cases modeOf s.alg <;> rfl
@[simp] theorem decryptSpan_prog : (decryptSpan s).prog = s.prog := by
  unfold decryptSpan; cases modeOf s.alg <;> rfl
@[simp] theorem decryptSpan_pc : (decryptSpan s).pc = s.pc := by
  unfold decryptSpan; cases modeOf s.alg <;> rfl
@[simp] theorem decryptSpan_resetIn : (decryptSpan s).resetIn = s.resetIn := by
  unfold decryptSpan; cases modeOf s.alg <;> rfl
@[simp] theorem decryptSpan_len : (decryptSpan s).len = s.len := by
  unfold decryptSpan; cases modeOf s.alg <;> rfl
@[simp] theorem decryptSpan_answer : (decryptSpan s).answer = s.answer := by
  unfold decryptSpan; cases modeOf s.alg <;> rfl
@[simp] theorem decryptSpan_ctxLive : (decryptSpan s).ctxLive = s.ctxLive := by
  unfold decryptSpan; cases modeOf s.alg <;> rfl
@[simp] theorem decryptSpan_keyed : (decryptSpan s).keyed = s.keyed := by
  unfold decryptSpan; cases modeOf s.alg <;> rfl
@[simp] theorem decryptSpan_ivValid : (decryptSpan s).ivValid = s.ivValid := by
  unfold decryptSpan; cases modeOf s.alg <;> rfl
@[simp] theorem decryptSpan_impl : (decryptSpan s).impl = s.impl := by
  unfold decryptSpan; cases modeOf s.alg <;> rfl
@[simp] theorem decryptSpan_alg : (decryptSpan s).alg = s.alg := by
  unfold decryptSpan; cases modeOf s.alg <;> rfl
@[simp] theorem decryptSpan_nr : (decryptSpan s).nr = s.nr := by
  unfold decryptSpan; cases modeOf s.alg <;> rfl
@[simp] theorem decryptSpan_fwd : (decryptSpan s).fwd = s.fwd := by
  unfold decryptSpan; cases modeOf s.alg <;> rfl
@[simp] theorem decryptSpan_inv : (decryptSpan s).inv = s.inv := by
  unfold decryptSpan; cases modeOf s.alg <;> rfl
@[simp] theorem decryptSpan_faulted : (decryptSpan s).faulted = s.faulted := by
  unfold decryptSpan; cases modeOf s.alg <;> rfl
@[simp] theorem decryptSpan_faultCause : (decryptSpan s).faultCause = s.faultCause := by
  unfold decryptSpan; cases modeOf s.alg <;> rfl
@[simp] theorem decryptSpan_scratch : (decryptSpan s).scratch = s.scratch := by
  unfold decryptSpan; cases modeOf s.alg <;> rfl
@[simp] theorem decryptSpan_freeCtr : (decryptSpan s).freeCtr = s.freeCtr := by
  unfold decryptSpan; cases modeOf s.alg <;> rfl

-- STATUS and scratch state around the block commands

@[simp] theorem encryptSpan_status : statusWord (encryptSpan s) = statusWord s := by simp [statusWord]
@[simp] theorem decryptSpan_status : statusWord (decryptSpan s) = statusWord s := by simp [statusWord]

/-- No mode machine reads scratch state of an earlier command (spec/10_state.md R31). -/
theorem encryptSpan_of_scratch (x : Scratch) : encryptSpan { s with scratch := x } = { encryptSpan s with scratch := x } := by
  unfold encryptSpan; cases modeOf s.alg <;> rfl

/-- No mode machine reads scratch state of an earlier command (spec/10_state.md R31). -/
theorem decryptSpan_of_scratch (x : Scratch) : decryptSpan { s with scratch := x } = { decryptSpan s with scratch := x } := by
  unfold decryptSpan; cases modeOf s.alg <;> rfl

end Sys2Proof.Machine
end

