-- ==== Sys2Proof/Laws/Exec.lean ====
section
/-! SUPPORT. What a command can do, said once: `exec` is its checks and its own rule inside the frame of
spec/45_commands.md R160. -/

namespace Sys2Proof.Machine

/-- The checks of a command (R160). -/
def commandCheck : Instr → State → Option Cause
  | .new code, s => checkNew code s
  | .setKey, s => checkSetKey s
  | .setIv, s => checkSetIv s
  | .encrypt, s => checkBlock s
  | .decrypt, s => checkBlock s
  | .free, s => checkFree s

/-- The state a command leaves when it completes. -/
def commandDone : Instr → State → State
  | .new code, s =>
    complete (freeScratch s.freeCtr) false (createContext ((algOfCode code).getD .aes128Cbc) s)
  | .setKey, s => complete { freeScratch s.freeCtr with keyBuf := Vector.replicate 32 0#8 } false
      (installKey (keyOperand s) (s.len / 4) s)
  | .setIv, s => complete (freeScratch s.freeCtr) false (installIv (ivOperand s) s)
  | .encrypt, s => complete (freeScratch s.freeCtr) true (encryptSpan s)
  | .decrypt, s => complete (freeScratch s.freeCtr) true (decryptSpan s)
  | .free, s => complete Scratch.zero false (wipeContext s)

/-- Every command is its checks and its own rule inside the same frame. -/
theorem exec_eq_guarded (i : Instr) (s : State) : exec i s = guarded (commandCheck i s) (commandDone i s) s := by
  cases i <;> rfl

/-- A frame on a faulted core ignores the command. -/
theorem guarded_faulted {check : Option Cause} {done s : State} (h : s.faulted = true) :
    guarded check done s = .next (ignoreCommand s) := by simp [guarded, h]

/-- A frame whose checks pass gives the state the command leaves. -/
theorem guarded_done {done s : State} (h : s.faulted = false) : guarded none done s = .next done := by
  simp [guarded, h]

/-- A frame with a failing check takes its fault. -/
theorem guarded_raise {c : Cause} {done s : State} (h : s.faulted = false) :
    guarded (some c) done s = .next (raiseFault c s) := by simp [guarded, h]

/-- Everything a frame can do, from the state it leaves. -/
theorem guarded_cases {check : Option Cause} {done s t : State} (h : guarded check done s = .next t) :
    (s.faulted = true ∧ t = ignoreCommand s) ∨
    (s.faulted = false ∧ ∃ c, check = some c ∧ t = raiseFault c s) ∨
    (s.faulted = false ∧ check = none ∧ t = done) := by
  cases hf : s.faulted with
  | true => rw [guarded_faulted hf] at h; exact .inl ⟨rfl, (Host.Outcome.next.inj h).symm⟩
  | false =>
    cases check with
    | some c => rw [guarded_raise hf] at h; exact .inr (.inl ⟨rfl, c, rfl, (Host.Outcome.next.inj h).symm⟩)
    | none => rw [guarded_done hf] at h; exact .inr (.inr ⟨rfl, rfl, (Host.Outcome.next.inj h).symm⟩)

/-- What `exec` can do, from the state it leaves. -/
theorem exec_cases {i : Instr} {s t : State} (h : exec i s = .next t) :
    (s.faulted = true ∧ t = ignoreCommand s) ∨
    (s.faulted = false ∧ ∃ c, commandCheck i s = some c ∧ t = raiseFault c s) ∨
    (s.faulted = false ∧ commandCheck i s = none ∧ t = commandDone i s) :=
  guarded_cases (by rwa [exec_eq_guarded] at h)

/-- Where the checks pass, `exec` completes. -/
theorem exec_done {i : Instr} {s : State} (hf : s.faulted = false) (hc : commandCheck i s = none) :
    exec i s = .next (commandDone i s) := by rw [exec_eq_guarded, hc, guarded_done hf]

/-- Where a check fails, `exec` takes its fault. -/
theorem exec_raise {i : Instr} {s : State} {c : Cause} (hf : s.faulted = false) (hc : commandCheck i s = some c) :
    exec i s = .next (raiseFault c s) := by rw [exec_eq_guarded, hc, guarded_raise hf]

/-- `exec` always gives a next state: no meaning stops the machine. -/
theorem exec_is_next (i : Instr) (s : State) : ∃ t, exec i s = .next t := by
  cases hf : s.faulted with
  | true => exact ⟨_, by rw [exec_eq_guarded, guarded_faulted hf]⟩
  | false =>
    cases hc : commandCheck i s with
    | some c => exact ⟨_, exec_raise hf hc⟩
    | none => exact ⟨_, exec_done hf hc⟩

/-- What taking a command can do. -/
theorem takeCommand_cases {c : Command} {s t : State} (h : takeCommand c s = .next t) :
    c.agent = .host ∧
      ((decode c.word = .illegalCommand ∧ t = raiseFault .illegalCommand (placeOperand c s)) ∨
        ∃ i, decode c.word = .command i ∧ exec i (placeOperand c s) = .next t) := by
  unfold takeCommand at h
  cases ha : c.agent with
  | other => rw [ha] at h; cases h
  | host =>
    rw [ha] at h
    refine ⟨rfl, ?_⟩
    cases hd : decode c.word with
    | illegalCommand => rw [hd] at h; exact .inl ⟨rfl, (Host.Outcome.next.inj h).symm⟩
    | command i => rw [hd] at h; exact .inr ⟨i, rfl, h⟩

/-- Everything a step can do, from the state it leaves: a reset, a wait, an illegal command, or a command. -/
theorem step_cases {s t : State} (h : step s = .next t) :
    (s.resetIn = .betweenCommands ∧ t = hardwareReset s) ∨
    (s.resetIn = .released ∧ s.faulted = false ∧ nextCommand s = none ∧ t = s) ∨
    (s.resetIn = .released ∧ s.faulted = false ∧ ∃ c, nextCommand s = some c ∧ c.agent = .host ∧
      ((decode c.word = .illegalCommand ∧ t = raiseFault .illegalCommand (placeOperand c s)) ∨
        ∃ i, decode c.word = .command i ∧ exec i (placeOperand c s) = .next t)) := by
  unfold step at h
  cases hr : s.resetIn with
  | duringCommand => rw [hr] at h; cases h
  | betweenCommands => rw [hr] at h; exact .inl ⟨rfl, (Host.Outcome.next.inj h).symm⟩
  | released =>
    rw [hr] at h
    refine .inr ?_
    cases hf : s.faulted with
    | true => simp [hf, noFurtherStep] at h
    | false =>
      simp only [hf, Bool.false_eq_true, if_false] at h
      cases hn : nextCommand s with
      | none => rw [hn] at h; exact .inl ⟨rfl, rfl, rfl, (Host.Outcome.next.inj h).symm⟩
      | some c => rw [hn] at h; exact .inr ⟨rfl, rfl, c, rfl, takeCommand_cases h⟩

theorem algOfCode_eq_none (code : BitVec 3) : algOfCode code = none ↔ code = 7#3 := by revert code; decide

theorem algCode_getD (code : BitVec 3) (h : code ≠ 7#3) : algCode ((algOfCode code).getD .aes128Cbc) = code := by
  revert code; decide

/-- When the checks of `NEW` pass. -/
theorem checkNew_eq_none (code : BitVec 3) (s : State) :
    checkNew code s = none ↔ code ≠ 7#3 ∧ s.ctxLive = false ∧ s.len = 0 := by
  simp only [checkNew, algOfCode_eq_none]
  by_cases h1 : code = 7#3 <;> by_cases h2 : s.ctxLive = true <;> by_cases h3 : s.len = 0 <;> simp [h1, h2, h3]

/-- When the checks of `SET_KEY` pass. -/
theorem checkSetKey_eq_none (s : State) : checkSetKey s = none ↔ s.ctxLive = true ∧ s.len = keyBytes s.alg := by
  by_cases h2 : s.ctxLive = true <;> by_cases h3 : s.len = keyBytes s.alg <;> simp [checkSetKey, h2, h3]

/-- When the checks of `SET_IV` pass. -/
theorem checkSetIv_eq_none (s : State) : checkSetIv s = none ↔ s.ctxLive = true ∧ s.len = 16 := by
  by_cases h2 : s.ctxLive = true <;> by_cases h3 : s.len = 16 <;> simp [checkSetIv, h2, h3]

/-- When the checks of `FREE` pass. -/
theorem checkFree_eq_none (s : State) : checkFree s = none ↔ s.ctxLive = true ∧ s.len = 0 := by
  by_cases h2 : s.ctxLive = true <;> by_cases h3 : s.len = 0 <;> simp [checkFree, h2, h3]

/-- When a span length is accepted. -/
theorem badSpan_eq_false (p : Params) (len : Nat) :
    badSpan p len = false ↔ len % 16 = 0 ∧ len ≤ p.maxSpanBytes ∧ (len = 0 → p.zeroLen = .noop) := by
  cases hz : p.zeroLen
  · simp [badSpan, hz]
  · simp [badSpan, hz]; omega

/-- When the checks of the block commands pass. -/
theorem checkBlock_eq_none (s : State) :
    checkBlock s = none ↔ s.ctxLive = true ∧ s.keyed = true ∧ s.ivValid = true ∧ badSpan s.cfg s.len = false := by
  by_cases h1 : s.ctxLive = true <;> by_cases h2 : s.keyed = true <;> by_cases h3 : s.ivValid = true <;>
    by_cases h4 : badSpan s.cfg s.len = true <;> simp [checkBlock, h1, h2, h3, h4]

/-- No check raises the cause NONE. -/
theorem commandCheck_ne_noCause (i : Instr) (s : State) : commandCheck i s ≠ some .none := by
  cases i <;> simp only [commandCheck, checkNew, checkSetKey, checkSetIv, checkBlock, checkFree] <;>
    (repeat' split) <;> simp

end Sys2Proof.Machine
end

