-- ==== Sys2Proof/Laws/Contract.lean ====
section
/-! SUPPORT. The checks of spec/45_commands.md R160 are the contracts of spec/60_exceptions.md R181. -/

namespace Sys2Proof.Safety

open Sys2Proof.Machine

/-- A decoded command is well formed (spec/30_encoding.md R67). -/
theorem wellFormed_of_decode {w : Word} {i : Instr} (h : decode w = .command i) : WellFormed i = true := by
  cases i with
  | new code =>
    revert h
    simp only [decode]
    split
    · simp
    · generalize algField w = a
      generalize opField w = o
      revert code a o
      decide
  | _ => rfl

/-- `NEW` is never decoded with the reserved code (R63). -/
theorem code_ne_of_decode {w : Word} {code : BitVec 3} (h : decode w = .command (.new code)) : code ≠ 7#3 := by
  have := wellFormed_of_decode h
  clear h
  revert code
  decide

/-- A span length that breaks the contract of the block commands. -/
theorem badSpan_eq_true (p : Params) (len : Nat) :
    badSpan p len = true ↔ len % 16 ≠ 0 ∨ p.maxSpanBytes < len ∨ (len = 0 ∧ p.zeroLen = .reject) := by
  simp [badSpan, or_assoc]

/-- A decoded command breaks its contract exactly when one of its checks fails on its operand. -/
theorem breaksContract_iff {c : Command} {i : Instr} (s : State) (h : decode c.word = .command i) :
    BreaksContract c s ↔ commandCheck i (placeOperand c s) ≠ none := by
  have block : checkBlock (placeOperand c s) ≠ none ↔ s.ctxLive = false ∨ s.keyed = false ∨ s.ivValid = false ∨
      badSpan s.cfg c.operand.length = true := by
    rw [Ne, checkBlock_eq_none]
    simp only [placeOperand]
    by_cases s.ctxLive = true <;> by_cases s.keyed = true <;> by_cases s.ivValid = true <;> simp_all
  rw [badSpan_eq_true] at block
  cases i with
  | new code =>
    have hc := code_ne_of_decode h
    simp only [BreaksContract, h, commandCheck, Ne, checkNew_eq_none, placeOperand]
    by_cases s.ctxLive = true <;> simp_all
  | setKey =>
    simp only [BreaksContract, h, commandCheck, Ne, checkSetKey_eq_none, placeOperand]
    by_cases s.ctxLive = true <;> simp_all
  | setIv =>
    simp only [BreaksContract, h, commandCheck, Ne, checkSetIv_eq_none, placeOperand]
    by_cases s.ctxLive = true <;> simp_all
  | encrypt => simp only [BreaksContract, h]; exact block.symm
  | decrypt => simp only [BreaksContract, h]; exact block.symm
  | free =>
    simp only [BreaksContract, h, commandCheck, Ne, checkFree_eq_none, placeOperand]
    by_cases s.ctxLive = true <;> simp_all

end Sys2Proof.Safety
end

