-- ==== Sys2Proof/Laws/Memory.lean ====
section
/-! SUPPORT. The laws of the buffer: a read after a write, the canonical form, and what a block write leaves alone. -/

namespace Sys2Proof.Machine

@[simp] theorem Memory.read_nil (x : Nat) : Memory.read [] x = 0#8 := rfl

/-- A canonical memory reads 0 below its first entry's bound. -/
theorem Memory.read_below_lo {lo : Nat} {m : Memory} (h : Memory.wfFrom lo m = true) {x : Nat} (hx : x < lo) :
    Memory.read m x = 0#8 := by
  induction m generalizing lo with
  | nil => rfl
  | cons c m ih =>
    obtain ⟨a, b⟩ := c
    simp only [Memory.wfFrom, Bool.and_eq_true, decide_eq_true_eq] at h
    have hne : a ≠ x := by omega
    simp only [Memory.read, hne, if_false]
    exact ih h.2 (by omega)

theorem Memory.wfFrom_mono {lo lo' : Nat} {m : Memory} (h : Memory.wfFrom lo m = true) (hle : lo' ≤ lo) :
    Memory.wfFrom lo' m = true := by
  cases m with
  | nil => rfl
  | cons c m =>
    simp only [Memory.wfFrom, Bool.and_eq_true, decide_eq_true_eq] at h ⊢
    exact ⟨⟨by omega, h.1.2⟩, h.2⟩

/-- A write reads back at its own offset, in a canonical memory. -/
theorem Memory.read_write_same {lo : Nat} {m : Memory} (h : Memory.wfFrom lo m = true) (x : Nat) (v : Byte) :
    Memory.read (Memory.write m x v) x = v := by
  induction m generalizing lo with
  | nil => by_cases hv : v = 0#8 <;> simp [Memory.write, Memory.read, hv]
  | cons c m ih =>
    obtain ⟨a, b⟩ := c
    have hw := h
    simp only [Memory.wfFrom, Bool.and_eq_true, decide_eq_true_eq] at h
    simp only [Memory.write]
    by_cases hlt : x < a
    · by_cases hv : v = 0#8
      · have hx : Memory.read ((a, b) :: m) x = 0#8 :=
          Memory.read_below_lo (lo := a) (by simp [Memory.wfFrom, h.1.2, h.2]) hlt
        simp only [hlt, if_true, hv]
        exact hx
      · simp [hlt, hv, Memory.read]
    · by_cases heq : a = x
      · by_cases hv : v = 0#8
        · have hx : Memory.read m x = 0#8 := Memory.read_below_lo h.2 (by omega)
          subst heq
          simp [hv, hx]
        · simp [heq, hv, Memory.read]
      · simp only [hlt, heq, if_false, Memory.read]
        exact ih h.2

/-- A write leaves every other offset as it was. -/
theorem Memory.read_write_ne {m : Memory} {x y : Nat} (v : Byte) (h : y ≠ x) :
    Memory.read (Memory.write m x v) y = Memory.read m y := by
  have hxy : ¬ x = y := fun e => h e.symm
  induction m with
  | nil => by_cases hv : v = 0#8 <;> simp [Memory.write, Memory.read, hv, hxy]
  | cons c m ih =>
    obtain ⟨a, b⟩ := c
    simp only [Memory.write]
    by_cases hlt : x < a
    · by_cases hv : v = 0#8 <;> simp [hlt, hv, Memory.read, hxy]
    · by_cases heq : a = x
      · by_cases hv : v = 0#8 <;> simp [heq, hv, Memory.read, hxy]
      · simp only [hlt, heq, if_false, Memory.read, ih]

/-- A write keeps the canonical form. -/
theorem Memory.wfFrom_write {lo : Nat} {m : Memory} (h : Memory.wfFrom lo m = true) {x : Nat} (hx : lo ≤ x) (v : Byte) :
    Memory.wfFrom lo (Memory.write m x v) = true := by
  induction m generalizing lo with
  | nil => by_cases hv : v = 0#8 <;> simp [Memory.write, Memory.wfFrom, hv, hx]
  | cons c m ih =>
    obtain ⟨a, b⟩ := c
    have hw := h
    simp only [Memory.wfFrom, Bool.and_eq_true, decide_eq_true_eq] at h
    simp only [Memory.write]
    by_cases hlt : x < a
    · by_cases hv : v = 0#8
      · simp [hlt, hv, hw]
      · have : x + 1 ≤ a := hlt
        simp [hlt, hv, Memory.wfFrom, hx, this, h.1.2, h.2]
    · by_cases heq : a = x
      · by_cases hv : v = 0#8
        · simp [heq, hv]
          exact Memory.wfFrom_mono h.2 (by omega)
        · subst heq
          simp [hv, Memory.wfFrom, hx, h.2]
      · simp only [hlt, heq, if_false, Memory.wfFrom, Bool.and_eq_true, decide_eq_true_eq]
        exact ⟨⟨h.1.1, h.1.2⟩, ih h.2 (by omega)⟩

theorem Memory.wf_write {m : Memory} (h : Memory.wf m = true) (x : Nat) (v : Byte) :
    Memory.wf (Memory.write m x v) = true := Memory.wfFrom_write h (Nat.zero_le x) v

/-- A write below a bound lists nothing at or above it. -/
theorem Memory.below_write {hi : Nat} {m : Memory} (h : Memory.below hi m = true) {x : Nat} (hx : x < hi) (v : Byte) :
    Memory.below hi (Memory.write m x v) = true := by
  induction m with
  | nil => by_cases hv : v = 0#8 <;> simp [Memory.write, Memory.below, hv, hx]
  | cons c m ih =>
    obtain ⟨a, b⟩ := c
    simp only [Memory.below, List.all_cons, Bool.and_eq_true, decide_eq_true_eq] at h ih ⊢
    simp only [Memory.write]
    by_cases hlt : x < a
    · by_cases hv : v = 0#8
      · simp only [hlt, hv, if_true]
        simp [h.1, h.2]
      · simp only [hlt, hv, if_true, if_false]
        simp [hx, h.1, h.2]
    · by_cases heq : a = x
      · by_cases hv : v = 0#8
        · subst heq
          simpa [hv] using h.2
        · subst heq
          simpa [hv, h.1] using h.2
      · simp only [hlt, heq, if_false, List.all_cons, Bool.and_eq_true, decide_eq_true_eq]
        exact ⟨h.1, ih h.2⟩

theorem Memory.wf_writeBytes {m : Memory} (h : Memory.wf m = true) (a : Nat) (bs : List Byte) :
    Memory.wf (Memory.writeBytes m a bs) = true := by
  induction bs generalizing m a with
  | nil => exact h
  | cons b bs ih => exact ih (Memory.wf_write h a b) (a + 1)

theorem Memory.below_writeBytes {hi : Nat} {m : Memory} (h : Memory.below hi m = true) (a : Nat) (bs : List Byte)
    (hx : a + bs.length ≤ hi) : Memory.below hi (Memory.writeBytes m a bs) = true := by
  induction bs generalizing m a with
  | nil => exact h
  | cons b bs ih =>
    simp only [List.length_cons] at hx
    exact ih (Memory.below_write h (by omega) b) (a + 1) (by omega)

/-- What a byte string written at `a` reads as at any offset: its own bytes inside, the old ones outside. -/
theorem Memory.read_writeBytes {m : Memory} (h : Memory.wf m = true) (a : Nat) (bs : List Byte) (x : Nat) :
    Memory.read (Memory.writeBytes m a bs) x =
      if a ≤ x ∧ x < a + bs.length then bs.getD (x - a) 0#8 else Memory.read m x := by
  induction bs generalizing m a with
  | nil =>
    have : ¬ (a ≤ x ∧ x < a + ([] : List Byte).length) := by simp only [List.length_nil]; omega
    rw [if_neg this]
    rfl
  | cons b bs ih =>
    simp only [Memory.writeBytes, ih (Memory.wf_write h a b) (a + 1), List.length_cons]
    by_cases hx : x = a
    · subst hx
      have h1 : ¬ (x + 1 ≤ x ∧ x < x + 1 + bs.length) := by omega
      have h2 : x ≤ x ∧ x < x + (bs.length + 1) := by omega
      rw [if_neg h1, if_pos h2, Memory.read_write_same h]
      simp
    · by_cases hin : a + 1 ≤ x ∧ x < a + 1 + bs.length
      · have h2 : a ≤ x ∧ x < a + (bs.length + 1) := by omega
        rw [if_pos hin, if_pos h2, show x - a = (x - (a + 1)) + 1 by omega]
        simp
      · have h2 : ¬ (a ≤ x ∧ x < a + (bs.length + 1)) := by omega
        rw [if_neg hin, if_neg h2, Memory.read_write_ne b hx]

/-- A byte string placed in an empty buffer reads back. -/
theorem Memory.read_ofBytes (bs : List Byte) (x : Nat) : Memory.read (Memory.ofBytes bs) x = bs.getD x 0#8 := by
  rw [Memory.ofBytes, Memory.read_writeBytes (m := []) rfl]
  by_cases hx : x < bs.length
  · simp [hx]
  · simp [hx]

theorem Memory.wf_ofBytes (bs : List Byte) : Memory.wf (Memory.ofBytes bs) = true :=
  Memory.wf_writeBytes (m := []) rfl 0 bs

theorem Memory.below_ofBytes (bs : List Byte) : Memory.below bs.length (Memory.ofBytes bs) = true :=
  Memory.below_writeBytes (m := []) rfl 0 bs (by omega)

/-- Two canonical memories that read alike are equal data. -/
theorem Memory.ext_wf {lo : Nat} {m m' : Memory} (h : Memory.wfFrom lo m = true) (h' : Memory.wfFrom lo m' = true)
    (heq : ∀ x, Memory.read m x = Memory.read m' x) : m = m' := by
  induction m generalizing lo m' with
  | nil =>
    cases m' with
    | nil => rfl
    | cons c m' =>
      obtain ⟨a, b⟩ := c
      simp only [Memory.wfFrom, Bool.and_eq_true, decide_eq_true_eq] at h'
      have := heq a
      simp only [Memory.read, if_true] at this
      exact absurd this.symm h'.1.2
  | cons c m ih =>
    obtain ⟨a, b⟩ := c
    have hw := h
    simp only [Memory.wfFrom, Bool.and_eq_true, decide_eq_true_eq] at h
    cases m' with
    | nil =>
      have := heq a
      simp only [Memory.read, if_true] at this
      exact absurd this h.1.2
    | cons c' m' =>
      obtain ⟨a', b'⟩ := c'
      have hw' := h'
      simp only [Memory.wfFrom, Bool.and_eq_true, decide_eq_true_eq] at h'
      have haa : a = a' := by
        rcases Nat.lt_trichotomy a a' with hlt | he | hgt
        · have := heq a
          rw [Memory.read_below_lo (lo := a') (m := (a', b') :: m') (by simp [Memory.wfFrom, h'.1.2, h'.2]) hlt] at this
          simp only [Memory.read, if_true] at this
          exact absurd this h.1.2
        · exact he
        · have := heq a'
          rw [Memory.read_below_lo (lo := a) (m := (a, b) :: m) (by simp [Memory.wfFrom, h.1.2, h.2]) hgt] at this
          simp only [Memory.read, if_true] at this
          exact absurd this.symm h'.1.2
      subst haa
      have hb : b = b' := by simpa [Memory.read] using heq a
      subst hb
      have htail : m = m' := by
        refine ih h.2 h'.2 fun x => ?_
        by_cases hx : a = x
        · subst hx
          rw [Memory.read_below_lo h.2 (by omega), Memory.read_below_lo h'.2 (by omega)]
        · have := heq x
          simpa [Memory.read, hx] using this
      rw [htail]

end Sys2Proof.Machine
end

