-- ==== Sys2Proof/Laws/PerInstr.lean ====
section
/-! SUPPORT. Per-instruction statements, about the instruction as syntax. -/

/-- The encoding of a well-formed command decodes to it (spec/30_encoding.md R61, R67). -/
def Sys2Proof.Laws.RoundTrip.Statement (i : Sys2Proof.Instr) : Prop :=
  Sys2Proof.WellFormed i = true → Sys2Proof.decode (Sys2Proof.encode i) = .command i

theorem Sys2Proof.Laws.RoundTrip.new (alg : BitVec 3) : Sys2Proof.Laws.RoundTrip.Statement (.new alg) := by
  unfold Sys2Proof.Laws.RoundTrip.Statement
  revert alg
  decide

theorem Sys2Proof.Laws.RoundTrip.setKey : Sys2Proof.Laws.RoundTrip.Statement .setKey := fun _ => by decide

theorem Sys2Proof.Laws.RoundTrip.setIv : Sys2Proof.Laws.RoundTrip.Statement .setIv := fun _ => by decide

theorem Sys2Proof.Laws.RoundTrip.encrypt : Sys2Proof.Laws.RoundTrip.Statement .encrypt := fun _ => by decide

theorem Sys2Proof.Laws.RoundTrip.decrypt : Sys2Proof.Laws.RoundTrip.Statement .decrypt := fun _ => by decide

theorem Sys2Proof.Laws.RoundTrip.free : Sys2Proof.Laws.RoundTrip.Statement .free := fun _ => by decide
end

