-- ==== Sys2Proof/Laws/Span.lean ====
section
/-! SUPPORT. Blocks of the span: a block reads back as written, other blocks and bytes stay, and the mode machines keep the
buffer's canonical form. -/

namespace Sys2Proof.Machine

/-- Byte `i` of block `k` is the byte at offset `16k + i`. -/
theorem blockByte_spanRead (m : Memory) (k i : Nat) (h : i < 16) :
    blockByte (spanRead m k) i = Memory.read m (16 * k + i) := by
  rw [spanRead, blockByte_blockOfBytes (by simp [Memory.readBytes]) i h]
  simp [Memory.readBytes, h]

/-- What a block write reads as at any offset. -/
theorem read_spanWrite {m : Memory} (h : Memory.wf m = true) (k : Nat) (v : Block) (x : Nat) :
    Memory.read (spanWrite m k v) x =
      if 16 * k ≤ x ∧ x < 16 * k + 16 then blockByte v (x - 16 * k) else Memory.read m x := by
  rw [spanWrite, Memory.read_writeBytes h, bytesOfBlock_length]
  by_cases hx : 16 * k ≤ x ∧ x < 16 * k + 16
  · rw [if_pos hx, if_pos hx, bytesOfBlock_getD v _ (by omega)]
  · rw [if_neg hx, if_neg hx]

/-- A block reads back as written. -/
theorem spanRead_spanWrite_same {m : Memory} (h : Memory.wf m = true) (k : Nat) (v : Block) :
    spanRead (spanWrite m k v) k = v :=
  block_ext fun i hi => by
    rw [blockByte_spanRead _ _ _ hi, read_spanWrite h, if_pos (by omega), show 16 * k + i - 16 * k = i by omega]

/-- A block write leaves the other blocks. -/
theorem spanRead_spanWrite_ne {m : Memory} (h : Memory.wf m = true) {j k : Nat} (hjk : j ≠ k) (v : Block) :
    spanRead (spanWrite m k v) j = spanRead m j :=
  block_ext fun i hi => by
    rw [blockByte_spanRead _ _ _ hi, blockByte_spanRead _ _ _ hi, read_spanWrite h, if_neg (by omega)]

theorem wf_spanWrite {m : Memory} (h : Memory.wf m = true) (k : Nat) (v : Block) : Memory.wf (spanWrite m k v) = true :=
  Memory.wf_writeBytes h _ _

theorem below_spanWrite {hi : Nat} {m : Memory} (h : Memory.below hi m = true) (k : Nat) (v : Block)
    (hx : 16 * (k + 1) ≤ hi) : Memory.below hi (spanWrite m k v) = true :=
  Memory.below_writeBytes h _ _ (by rw [bytesOfBlock_length]; omega)

theorem cbcEncLoop_buffer (enc : Block → Block) {hi : Nat} (left : Nat) :
    ∀ (k : Nat) (m : Memory) (v : Block), Memory.wf m = true → Memory.below hi m = true → 16 * (k + left) ≤ hi →
      Memory.wf (cbcEncLoop enc left k m v).1 = true ∧ Memory.below hi (cbcEncLoop enc left k m v).1 = true := by
  induction left with
  | zero => intro k m v h1 h2 _; exact ⟨h1, h2⟩
  | succ n ih =>
    intro k m v h1 h2 h3
    exact ih (k + 1) _ _ (wf_spanWrite h1 _ _) (below_spanWrite h2 _ _ (by omega)) (by omega)

theorem cbcDecLoop_buffer (dec : Block → Block) {hi : Nat} (left : Nat) :
    ∀ (k : Nat) (m : Memory) (v : Block), Memory.wf m = true → Memory.below hi m = true → 16 * (k + left) ≤ hi →
      Memory.wf (cbcDecLoop dec left k m v).1 = true ∧ Memory.below hi (cbcDecLoop dec left k m v).1 = true := by
  induction left with
  | zero => intro k m v h1 h2 _; exact ⟨h1, h2⟩
  | succ n ih =>
    intro k m v h1 h2 h3
    exact ih (k + 1) _ _ (wf_spanWrite h1 _ _) (below_spanWrite h2 _ _ (by omega)) (by omega)

theorem ctrLoop_buffer (enc inc : Block → Block) {hi : Nat} (left : Nat) :
    ∀ (k : Nat) (m : Memory) (v : Block), Memory.wf m = true → Memory.below hi m = true → 16 * (k + left) ≤ hi →
      Memory.wf (ctrLoop enc inc left k m v).1 = true ∧ Memory.below hi (ctrLoop enc inc left k m v).1 = true := by
  induction left with
  | zero => intro k m v h1 h2 _; exact ⟨h1, h2⟩
  | succ n ih =>
    intro k m v h1 h2 h3
    exact ih (k + 1) _ _ (wf_spanWrite h1 _ _) (below_spanWrite h2 _ _ (by omega)) (by omega)

end Sys2Proof.Machine
end

