-- ==== Sys2Proof/Tests/Slice0.lean ====
section
/-! SUPPORT. Tests against the values of spec/95_test_vectors.md and of the rules' own examples, the WellFormed smoke test, and for
every obligation with hypotheses a state and operands that meet them. -/

namespace Sys2Proof.Tests

open Sys2Proof.Machine Sys2Proof.Safety

-- STATES

/-- A build with the portable path, `MAX_SPAN_BYTES` 64 and zero-length spans accepted. -/
def portable : Params := ⟨true, false, 3, .noop⟩

/-- The same build with the hardware path. -/
def withAes : Params := ⟨true, true, 3, .noop⟩

/-- The same build with zero-length spans rejected. -/
def rejecting : Params := ⟨true, false, 3, .reject⟩

/-- A context right after `NEW`. -/
def newContext (p : Params) (a : Alg) : State :=
  { State.resetWith p with ctxLive := true, alg := a, impl := selectImpl p }

/-- A context with a key and an IV, and bytes in the buffer. -/
def ready (p : Params) (a : Alg) (key : List Byte) (v : Block) (buffer : List Byte) : State :=
  withBuffer buffer (installIv v (installKey key (key.length / 4) (newContext p a)))

/-- The bytes of a block. -/
def key128 : List Byte := bytesOfBlock 0x2b7e151628aed2a6abf7158809cf4f3c#128

/-- The key `000102...` of a number of bytes. -/
def countingKey (n : Nat) : List Byte := (List.range n).map (BitVec.ofNat 8)

/-- The state a command or a step leaves. -/
def left : Host.Outcome State Fault Refusal → Option State
  | .next s => some s
  | .fault _ => none
  | .refused _ => none

/-- The STATUS word a command or a step leaves. -/
def statusLeft (o : Host.Outcome State Fault Refusal) : Option Word := (left o).map statusWord

-- SYNTAX: an ill-formed term for the check, which the check refuses (R63)

theorem test_wellFormed_refuses_code_7 : WellFormed (.new 7#3) = false := by decide

theorem test_wellFormed_accepts_code_6 : WellFormed (.new 6#3) = true := by decide

-- DECODING: the words of spec/opcode_table.json, bit by bit: 31..7 RSV, 6..4 ALG, 3..0 OP

theorem test_decode_new : decode 0b00000000000000000000000000000001#32 = .command (.new 0#3) := by decide

theorem test_decode_new_aes256_ctr : decode 0b00000000000000000000000001100001#32 = .command (.new 6#3) := by decide

theorem test_decode_new_code_7 : decode 0b00000000000000000000000001110001#32 = .illegalCommand := by decide

theorem test_decode_setKey : decode 0b00000000000000000000000000000010#32 = .command .setKey := by decide

theorem test_decode_setIv : decode 0b00000000000000000000000000000011#32 = .command .setIv := by decide

theorem test_decode_encrypt : decode 0b00000000000000000000000000000100#32 = .command .encrypt := by decide

theorem test_decode_decrypt : decode 0b00000000000000000000000000000101#32 = .command .decrypt := by decide

theorem test_decode_free : decode 0b00000000000000000000000000000110#32 = .command .free := by decide

theorem test_decode_reserved_op : decode 0b00000000000000000000000000000111#32 = .illegalCommand := by decide

theorem test_decode_alg_outside_new : decode 0b00000000000000000000000000010010#32 = .illegalCommand := by decide

theorem test_decode_reserved_bit : decode 0b10000000000000000000000000000001#32 = .illegalCommand := by decide

theorem test_decodeTableWord : decodeTableWord 32 0x41 = some (.new 4#3) ∧ decodeTableWord 32 0 = none := by decide

-- ROMS (section 2.1 of the vectors)

theorem test_sbox_corners :
    sbox 0x00#8 = 0x63#8 ∧ sbox 0x01#8 = 0x7C#8 ∧ sbox 0x53#8 = 0xED#8 ∧ sbox 0xFF#8 = 0x16#8 := by decide

theorem test_sinv_corners :
    sinv 0x00#8 = 0x52#8 ∧ sinv 0x01#8 = 0x09#8 ∧ sinv 0xED#8 = 0x53#8 ∧ sinv 0xFF#8 = 0x7D#8 := by decide

theorem test_e_tables :
    e0 0x53#8 = 0xC1EDED2C#32 ∧ e1 0x00#8 = 0xA5C66363#32 ∧ e2 0x00#8 = 0x63A5C663#32 ∧ e3 0x00#8 = 0x6363A5C6#32 := by
  decide

theorem test_d_tables :
    d0 0xED#8 = 0x5FFDAA5B#32 ∧ d1 0x00#8 = 0x5051F4A7#32 ∧ d2 0x00#8 = 0xA75051F4#32 ∧ d3 0x00#8 = 0xF4A75051#32 := by
  decide

theorem test_mixColumn : mixColumn 0xF20A225C#32 = 0x9FDC589D#32 ∧ mixColumn 0xD4D4D4D5#32 = 0xD5D5D7D6#32 := by decide

-- THE KEY SCHEDULE (section 2.2 of the vectors)

theorem test_subWord_rotWord :
    rotWord 0x09CF4F3C#32 = 0xCF4F3C09#32 ∧ subWord 0xCF4F3C09#32 = 0x8A84EB01#32 := by decide

theorem test_keyExpand_192 : schedWord (keyExpand (countingKey 24) 6) 51 = 0xe3a41d5d#32 := by decide +kernel

theorem test_keyExpand_256 : schedWord (keyExpand (countingKey 32) 8) 59 = 0x6d68de36#32 := by decide +kernel

theorem test_invExpand_inner_row : schedWord (invExpand (keyExpand key128 4) 10) 4 = 0x0c7b5a63#32 := by decide +kernel

-- THE ENGINE (sections 1 and 2.3 of the vectors, S2, S3)

theorem test_ecbEnc_192 : ecbEnc (keyExpand (countingKey 24) 6) 12 0x00112233445566778899aabbccddeeff#128 =
    0xdda97ca4864cdfe06eaf70a0ec0d7191#128 := by decide +kernel

theorem test_hwEcbEnc_256 : hwEcbEnc (keyExpand (countingKey 32) 8) 14 0x00112233445566778899aabbccddeeff#128 =
    0x8ea2b7ca516745bfeafc49904b496089#128 := by decide +kernel

theorem test_ctrInc_carries : hwCtrInc 0x0000000000000000ffffffffffffffff#128 = 0x00000000000000010000000000000000#128 ∧
    ctrInc 0xf0f1f2f3f4f5f6f7f8f9fafbfcfdfeff#128 = 0xf0f1f2f3f4f5f6f7f8f9fafbfcfdff00#128 := by decide

-- THE COMMANDS (section 2.5 of the vectors and the rules' examples)

theorem test_new_status : statusLeft (exec (.new 4#3) (State.resetWith portable)) = some 0x00000401#32 ∧
    statusLeft (exec (.new 4#3) (State.resetWith withAes)) = some 0x00000409#32 := by decide

theorem test_new_twice_faults :
    statusLeft (exec (.new 0#3) (newContext portable .aes128Cbc)) = some 0x00003011#32 := by decide

theorem test_setKey_schedule :
    (left (exec .setKey (withBuffer key128 (newContext portable .aes128Cbc)))).map
      (fun t => (schedWord t.fwd 43, statusWord t)) = some (0xB6630CA6#32, 0x000A0003#32) := by decide +kernel

theorem test_setKey_wrong_length :
    statusLeft (exec .setKey (withBuffer key128 (newContext portable .aes192Cbc))) = some 0x00004111#32 := by decide

theorem test_setIv_bytes :
    (left (exec .setIv (withBuffer (countingKey 16) (newContext portable .aes128Ctr)))).map
      (fun t => (t.iv, statusWord t)) = some (0x000102030405060708090a0b0c0d0e0f#128, 0x00000405#32) := by decide +kernel

theorem test_setIv_wrong_length :
    statusLeft (exec .setIv (withBuffer (countingKey 15) (newContext portable .aes128Cbc))) = some 0x00005011#32 := by decide

/-- S4: one block of CBC, and the IV after it. -/
theorem test_encrypt_cbc :
    (left (exec .encrypt (ready portable .aes128Cbc key128 0x000102030405060708090a0b0c0d0e0f#128
      (bytesOfBlock 0x6bc1bee22e409f96e93d7e117393172a#128)))).map (fun t => (spanRead t.mem 0, t.iv)) =
    some (0x7649abac8119b246cee98e9b12e9197d#128, 0x7649abac8119b246cee98e9b12e9197d#128) := by decide +kernel

/-- S5 on the hardware path: one block of CTR, and the counter after it. -/
theorem test_encrypt_ctr_hardware :
    (left (exec .encrypt (ready withAes .aes128Ctr key128 0xf0f1f2f3f4f5f6f7f8f9fafbfcfdfeff#128
      (bytesOfBlock 0x6bc1bee22e409f96e93d7e117393172a#128)))).map (fun t => (spanRead t.mem 0, t.iv)) =
    some (0x874d6191b620e3261bef6864990db6ce#128, 0xf0f1f2f3f4f5f6f7f8f9fafbfcfdff00#128) := by decide +kernel

/-- The second block of an in-place CBC decryption (R132's example): chained from the ciphertext, not from the plaintext. -/
theorem test_decrypt_cbc_second_block :
    (left (exec .decrypt (ready portable .aes128Cbc key128 0x000102030405060708090a0b0c0d0e0f#128
      (bytesOfBlock 0x7649abac8119b246cee98e9b12e9197d#128 ++ bytesOfBlock 0x5086cb9b507219ee95db113a917678b2#128)))).map
        (fun t => (spanRead t.mem 1, t.iv)) =
    some (0xae2d8a571e03ac9c9eb76fac45af8e51#128, 0x5086cb9b507219ee95db113a917678b2#128) := by decide +kernel

theorem test_decrypt_bad_span :
    statusLeft (exec .decrypt (ready portable .aes128Cbc key128 0#128 (countingKey 15))) = some 0x000A8017#32 := by
  decide +kernel

theorem test_free_status :
    statusLeft (exec .free (ready portable .aes256Cbc (countingKey 32) 0#128 [])) = some 0x00000000#32 := by decide +kernel

theorem test_free_with_operand :
    statusLeft (exec .free (withBuffer (countingKey 4) (newContext portable .aes128Cbc))) = some 0x00009011#32 := by decide

-- STEPS

theorem test_step_runs_fetched_new :
    statusLeft (step ((State.resetWith portable).withFetchWord 32 0x61)) = some 0x00000601#32 := by decide

theorem test_step_fetched_free_from_reset :
    statusLeft (step (State.reset.withFetchWord 32 0x6)) = some 0x00002010#32 := by decide

theorem test_step_illegal_word :
    statusLeft (step ((State.resetWith portable).withFetchWord 32 0x7)) = some 0x00001010#32 := by decide

-- THE ASSEMBLER (R71, R72)

theorem test_assemble_setIv : assembleText ["SET_IV 0001 02 ; c"] =
    some [⟨0x00000003#32, [0x00#8, 0x01#8, 0x02#8], .host⟩] := by decide

theorem test_assemble_lines : assembleText ["NEW aes256-ctr", "", "ENCRYPT -", ".cmd 0x00000012 ff"] =
    some [⟨0x00000061#32, [], .host⟩, ⟨0x00000004#32, [], .host⟩, ⟨0x00000012#32, [0xFF#8], .host⟩] := by decide

theorem test_assemble_ecb : (parseLine "ECB_ENCRYPT aes128-cbc, 00, ff".toList) =
    some (some (.ecbEncrypt .aes128Cbc [0x00#8] [0xFF#8])) := by decide

-- WITNESSES: a state and operands that meet the hypotheses of each obligation that has some

/-- A core with a program of one command, as after reset. -/
def issued (w : Word) (operand : List Byte) : State := { State.resetWith portable with prog := [⟨w, operand, .host⟩] }

/-- A core with a context, about to take one command with a 16-byte operand. -/
def issuedLive (w : Word) : State := { newContext portable .aes128Cbc with prog := [⟨w, countingKey 16, .host⟩] }

/-- A core with a key and an IV that is not zero, about to take one command with an empty operand. -/
def issuedReady (w : Word) : State :=
  { ready portable .aes128Cbc (countingKey 16) 1#128 [] with prog := [⟨w, [], .host⟩] }

/-- A core that has taken a fault. -/
def faultedState : State := raiseFault .noContext (State.resetWith portable)

/-- A keyed CBC context with two blocks in the buffer. -/
def readyCbc : State := ready portable .aes128Cbc (countingKey 16) 0#128 (countingKey 32)

/-- A keyed CTR context with two blocks in the buffer. -/
def readyCtr : State := ready withAes .aes128Ctr (countingKey 16) 0#128 (countingKey 32)

theorem test_witness_DecoderFollowsPseudocode :
    (∃ w : Word, w.toNat / 128 ≠ 0) ∧ (∃ w : Word, w.toNat / 128 = 0 ∧ w.toNat % 16 = 1 ∧ w.toNat / 16 = 7) ∧
    (∃ w : Word, w.toNat / 128 = 0 ∧ w.toNat % 16 = 1 ∧ w.toNat / 16 = 6) ∧
    (∃ w : Word, w.toNat / 128 = 0 ∧ w.toNat % 16 = 6 ∧ w.toNat / 16 ≠ 0) ∧
    (∃ w : Word, w.toNat / 128 = 0 ∧ w.toNat % 16 = 2 ∧ w.toNat / 16 = 0) ∧
    (∃ w : Word, w.toNat / 128 = 0 ∧ w.toNat % 16 = 3 ∧ w.toNat / 16 = 0) ∧
    (∃ w : Word, w.toNat / 128 = 0 ∧ w.toNat % 16 = 4 ∧ w.toNat / 16 = 0) ∧
    (∃ w : Word, w.toNat / 128 = 0 ∧ w.toNat % 16 = 5 ∧ w.toNat / 16 = 0) ∧
    (∃ w : Word, w.toNat / 128 = 0 ∧ w.toNat % 16 = 6 ∧ w.toNat / 16 = 0) ∧
    (∃ w : Word, w.toNat / 128 = 0 ∧ w.toNat % 16 = 0) ∧ (∃ w : Word, w.toNat / 128 = 0 ∧ 7 ≤ w.toNat % 16) :=
  ⟨⟨0x80#32, by decide⟩, ⟨0x71#32, by decide⟩, ⟨0x61#32, by decide⟩, ⟨0x16#32, by decide⟩, ⟨2#32, by decide⟩,
    ⟨3#32, by decide⟩, ⟨4#32, by decide⟩, ⟨5#32, by decide⟩, ⟨6#32, by decide⟩, ⟨0#32, by decide⟩, ⟨7#32, by decide⟩⟩

theorem test_witness_ReservedBitsFault :
    (∃ w : Word, rsvField w ≠ 0#25) ∧ (∃ w : Word, algField w ≠ 0#3 ∧ opField w ≠ 1#4) ∧
    (∃ w : Word, opField w = 1#4 ∧ algField w = 7#3) ∧ (∃ w : Word, opField w = 0#4) ∧
    (∃ w : Word, (opField w).toNat = 7) ∧
    (∃ (s : State) (c : Command), s.resetIn = .released ∧ s.faulted = false ∧ nextCommand s = some c ∧ c.agent = .host ∧
      decode c.word = .illegalCommand ∧ c.word = 0x80000001#32) ∧
    (∃ (s : State) (c : Command), s.resetIn = .released ∧ s.faulted = false ∧ nextCommand s = some c ∧ c.agent = .host ∧
      decode c.word = .illegalCommand ∧ c.word = 0x7#32 ∧ c.operand ≠ []) :=
  ⟨⟨0x80000001#32, by decide⟩, ⟨0x12#32, by decide⟩, ⟨0x71#32, by decide⟩, ⟨0#32, by decide⟩, ⟨7#32, by decide⟩,
    ⟨issued 0x80000001#32 [], _, rfl, rfl, rfl, rfl, by decide, rfl⟩,
    ⟨issued 0x7#32 [1#8], _, rfl, rfl, rfl, rfl, by decide, rfl, by decide⟩⟩

theorem test_witness_StepRunsDecodedCommand :
    ∃ (s : State) (c : Command) (i : Instr), s.resetIn = .released ∧ s.faulted = false ∧ nextCommand s = some c ∧
      c.agent = .host ∧ decode c.word = .command i :=
  ⟨issued 0x61#32 [], ⟨0x61#32, [], .host⟩, .new 6#3, rfl, rfl, rfl, rfl, by decide⟩

theorem test_witness_FaultedCoreIgnoresCommands : ∃ s : State, s.faulted = true ∧ s.resetIn = .released :=
  ⟨faultedState, rfl, rfl⟩

theorem test_witness_CoreWaitsForCommand :
    ∃ s : State, s.resetIn = .released ∧ s.faulted = false ∧ s.prog.length ≤ s.pc :=
  ⟨State.resetWith portable, rfl, rfl, Nat.le_refl 0⟩

theorem test_witness_CommandIndexAdvances :
    (∃ (i : Instr) (s t : State), s.faulted = false ∧ exec i s = .next t ∧ t.faulted = false) ∧
    (∃ (i : Instr) (s t : State), s.faulted = false ∧ exec i s = .next t ∧ t.faulted = true) :=
  ⟨⟨.new 0#3, State.resetWith portable, _, rfl, exec_done rfl (by decide), rfl⟩,
    ⟨.free, State.resetWith portable, _, rfl, exec_raise rfl (c := .noContext) (by decide), rfl⟩⟩

theorem test_witness_HardwareResetSetsEveryField : ∃ s : State, s.resetIn = .betweenCommands ∧ s.faulted = true :=
  ⟨{ faultedState with resetIn := .betweenCommands }, rfl, rfl⟩

theorem test_witness_NoContextFaults :
    ∃ (s : State) (i : Instr), s.faulted = false ∧ s.ctxLive = false ∧
      (i = .setKey ∨ i = .setIv ∨ i = .encrypt ∨ i = .decrypt ∨ i = .free) :=
  ⟨State.resetWith portable, .free, by decide⟩

theorem test_witness_StepKeepsInvariant : ∃ s t : State, Inv s ∧ step s = .next t :=
  ⟨State.resetWith portable, State.resetWith portable,
    { fault := by decide
      noContext := by decide
      impl := by decide
      unkeyed := by decide
      noIv := by decide
      keyed := fun h => by cases h
      buffer := by decide }, rfl⟩

/-- `NewCreatesContext`, at every legal code. -/
theorem test_witness_NewCreatesContext :
    ∃ s : State, s.faulted = false ∧ s.ctxLive = false ∧ s.len = 0 ∧ ∀ code : BitVec 3, code.toNat ≤ 6 → code ≠ 7#3 :=
  ⟨State.resetWith portable, by decide⟩

theorem test_witness_NewFaultsInOrder :
    (∃ (s t : State), s.faulted = false ∧ exec (.new 7#3) s = .next t ∧ t.faulted = true) ∧
    (∃ (s t : State), s.faulted = false ∧ s.ctxLive = true ∧ exec (.new 0#3) s = .next t ∧ t.faulted = true) ∧
    (∃ (s t : State), s.faulted = false ∧ s.ctxLive = false ∧ s.len = 1 ∧ exec (.new 0#3) s = .next t ∧ t.faulted = true) ∧
    (∃ (s t : State), s.faulted = false ∧ exec (.new 6#3) s = .next t ∧ t.faulted = false) :=
  ⟨⟨State.resetWith portable, _, rfl, exec_raise rfl (c := .illegalCommand) (by decide), rfl⟩,
    ⟨newContext portable .aes128Cbc, _, rfl, rfl, exec_raise rfl (c := .contextLive) (by decide), rfl⟩,
    ⟨withBuffer [0#8] (State.resetWith portable), _, rfl, rfl, rfl,
      exec_raise rfl (c := .badOperandLength) (by decide), rfl⟩,
    ⟨State.resetWith portable, _, rfl, exec_done rfl (by decide), rfl⟩⟩

theorem test_witness_UnavailableHardwareIsNoError :
    ∃ (s : State) (code : BitVec 3), s.cfg.hwAvailable = false ∧ s.faulted = false ∧ code ≠ 7#3 ∧ s.ctxLive = false ∧
      s.len = 0 :=
  ⟨State.resetWith portable, 0#3, by decide⟩

theorem test_witness_SetKeyInstallsSchedules :
    ∃ s : State, s.faulted = false ∧ s.ctxLive = true ∧ s.len = keyBytes s.alg :=
  ⟨withBuffer (countingKey 24) (newContext portable .aes192Ctr), by decide⟩

theorem test_witness_SetKeyChecksLength : ∃ s : State, s.faulted = false ∧ s.ctxLive = true ∧ s.len ≠ keyBytes s.alg :=
  ⟨withBuffer (countingKey 16) (newContext portable .aes256Cbc), by decide⟩

theorem test_witness_SetIvInstallsIv : ∃ s : State, s.faulted = false ∧ s.ctxLive = true ∧ s.len = 16 :=
  ⟨withBuffer (countingKey 16) (newContext portable .aes256Cbc), by decide⟩

theorem test_witness_SetIvChecksLength : ∃ s : State, s.faulted = false ∧ s.ctxLive = true ∧ s.len ≠ 16 :=
  ⟨withBuffer (countingKey 17) (newContext portable .aes256Cbc), by decide⟩

theorem readyCbc_ready : BlockReady readyCbc := by decide

theorem readyCtr_ready : BlockReady readyCtr := by decide

theorem readyCbc_buffer : BufferInv readyCbc := ⟨Memory.wf_ofBytes _, Memory.below_ofBytes _⟩

theorem readyCtr_buffer : BufferInv readyCtr := ⟨Memory.wf_ofBytes _, Memory.below_ofBytes _⟩

/-- `EncryptCbcChains`, `DecryptCbcUnchains`. -/
theorem test_witness_CbcCommands : ∃ s : State, BlockReady s ∧ modeOf s.alg = .cbc ∧ BufferInv s ∧ s.len = 32 :=
  ⟨readyCbc, readyCbc_ready, rfl, readyCbc_buffer, rfl⟩

/-- `EncryptCbcChains`, `DecryptCbcUnchains`, at the empty span. -/
theorem test_witness_CbcCommands_empty : ∃ s : State, BlockReady s ∧ modeOf s.alg = .cbc ∧ BufferInv s ∧ s.len = 0 :=
  ⟨withBuffer [] readyCbc, by decide, rfl, ⟨Memory.wf_ofBytes _, Memory.below_ofBytes _⟩, rfl⟩

theorem test_witness_CtrAddsKeystream : ∃ s : State, BlockReady s ∧ modeOf s.alg = .ctr ∧ BufferInv s ∧ s.len = 32 :=
  ⟨readyCtr, readyCtr_ready, rfl, readyCtr_buffer, rfl⟩

theorem test_witness_BlockFaultsInOrder :
    (∃ (s t : State), s.faulted = false ∧ s.ctxLive = true ∧ exec .encrypt s = .next t ∧ s.keyed = false) ∧
    (∃ (s t : State), s.faulted = false ∧ s.ctxLive = true ∧ exec .encrypt s = .next t ∧ s.keyed = true ∧
      s.ivValid = false) ∧
    (∃ (s t : State), s.faulted = false ∧ s.ctxLive = true ∧ exec .decrypt s = .next t ∧ s.keyed = true ∧
      s.ivValid = true ∧ s.len = 15) ∧
    (∃ (s t : State), s.faulted = false ∧ s.ctxLive = true ∧ exec .decrypt s = .next t ∧ s.keyed = true ∧
      s.ivValid = true ∧ s.len = s.cfg.maxSpanBytes + 16) ∧
    (∃ (s t : State), s.faulted = false ∧ s.ctxLive = true ∧ exec .decrypt s = .next t ∧ s.keyed = true ∧
      s.ivValid = true ∧ s.len = 0 ∧ s.cfg.zeroLen = .reject) ∧
    (∃ (s t : State), exec .encrypt s = .next t ∧ BlockReady s ∧ s.len = s.cfg.maxSpanBytes) :=
  ⟨⟨newContext portable .aes128Cbc, _, rfl, rfl, exec_raise rfl (c := .notKeyed) (by decide), rfl⟩,
    ⟨installKey [] 4 (newContext portable .aes128Cbc), _, rfl, rfl, exec_raise rfl (c := .ivNotSet) (by decide), rfl, rfl⟩,
    ⟨withBuffer (countingKey 15) readyCbc, _, rfl, rfl, exec_raise rfl (c := .badSpanLength) (by decide), rfl, rfl, rfl⟩,
    ⟨withBuffer (countingKey 80) readyCbc, _, rfl, rfl, exec_raise rfl (c := .badSpanLength) (by decide), rfl, rfl, rfl⟩,
    ⟨ready rejecting .aes128Cbc [] 0#128 [], _, rfl, rfl, exec_raise rfl (c := .badSpanLength) (by decide), rfl, rfl, rfl,
      rfl⟩,
    ⟨withBuffer (countingKey 64) readyCbc, _, exec_done rfl (by decide), by decide, rfl⟩⟩

theorem test_witness_ZeroLengthFollowsPolicy :
    (∃ s : State, s.faulted = false ∧ s.ctxLive = true ∧ s.keyed = true ∧ s.ivValid = true ∧ s.len = 0 ∧
      s.cfg.zeroLen = .noop) ∧
    (∃ s : State, s.faulted = false ∧ s.ctxLive = true ∧ s.keyed = true ∧ s.ivValid = true ∧ s.len = 0 ∧
      s.cfg.zeroLen = .reject) :=
  ⟨⟨ready portable .aes128Cbc [] 0#128 [], by decide⟩, ⟨ready rejecting .aes128Cbc [] 0#128 [], by decide⟩⟩

theorem test_witness_FreeWipesContext :
    ∃ s : State, s.faulted = false ∧ s.faultCause = .none ∧ s.ctxLive = true ∧ s.len = 0 ∧ s.keyed = true :=
  ⟨ready portable .aes128Cbc (countingKey 16) 0#128 [], by decide⟩

theorem test_witness_FreeChecksLength : ∃ s : State, s.faulted = false ∧ s.ctxLive = true ∧ s.len ≠ 0 :=
  ⟨readyCbc, by decide⟩

theorem test_witness_FaultsArePrecise :
    ∃ (i : Instr) (s t : State), s.faulted = false ∧ exec i s = .next t ∧ t.faulted = true :=
  ⟨.encrypt, withBuffer (countingKey 15) readyCbc, _, rfl, exec_raise rfl (c := .badSpanLength) (by decide), rfl⟩

/-- `FrameNewFree`. -/
theorem test_witness_FrameNewFree :
    (∃ s t : State, exec (.new 3#3) s = .next t ∧ t.faulted = false) ∧
    (∃ s t : State, exec .free s = .next t ∧ t.faulted = false) :=
  ⟨⟨State.resetWith portable, _, exec_done rfl (by decide), rfl⟩,
    ⟨newContext portable .aes128Cbc, _, exec_done rfl (by decide), rfl⟩⟩

/-- `FrameSetKeySetIv`. -/
theorem test_witness_FrameSetKeySetIv :
    (∃ s t : State, exec .setKey s = .next t ∧ t.faulted = false) ∧
    (∃ s t : State, exec .setIv s = .next t ∧ t.faulted = false) :=
  ⟨⟨withBuffer (countingKey 16) (newContext portable .aes128Cbc), _, exec_done rfl (by decide), rfl⟩,
    ⟨withBuffer (countingKey 16) (newContext portable .aes128Cbc), _, exec_done rfl (by decide), rfl⟩⟩

/-- `FrameEncryptDecrypt`. -/
theorem test_witness_FrameEncryptDecrypt :
    (∃ s t : State, exec .encrypt s = .next t ∧ ∀ k, k < spanBlocks s → ¬ (16 * k ≤ 32 ∧ 32 < 16 * k + 16)) ∧
    (∃ s t : State, exec .decrypt s = .next t ∧ ∀ k, k < spanBlocks s → ¬ (16 * k ≤ 32 ∧ 32 < 16 * k + 16)) :=
  ⟨⟨readyCbc, _, exec_done rfl (by decide), by decide⟩, ⟨readyCtr, _, exec_done rfl (by decide), by decide⟩⟩

/-- `FlagAndIvWriters`: a step that makes the core live. -/
theorem test_witness_FlagWriters_new : ∃ s t : State, step s = .next t ∧ s.ctxLive = false ∧ t.ctxLive = true :=
  ⟨issued 0x1#32 [], _, rfl, rfl, rfl⟩

/-- `FlagAndIvWriters`: a step that keys the core. -/
theorem test_witness_FlagWriters_setKey : ∃ s t : State, step s = .next t ∧ s.keyed = false ∧ t.keyed = true :=
  ⟨issuedLive 0x2#32, _, (show step _ = exec .setKey (placeOperand ⟨0x2#32, countingKey 16, .host⟩ (issuedLive 0x2#32)) from
    rfl).trans (exec_done rfl (by decide)), rfl, rfl⟩

/-- `FlagAndIvWriters`: a step that validates the IV and changes it. -/
theorem test_witness_FlagWriters_setIv :
    ∃ s t : State, step s = .next t ∧ s.ivValid = false ∧ t.ivValid = true ∧ s.ctxLive = true ∧ t.ctxLive = true ∧
      t.iv ≠ s.iv :=
  ⟨issuedLive 0x3#32, _, (show step _ = exec .setIv (placeOperand ⟨0x3#32, countingKey 16, .host⟩ (issuedLive 0x3#32)) from
    rfl).trans (exec_done rfl (by decide)), rfl, rfl, rfl, rfl, by decide +kernel⟩

/-- `FlagAndIvWriters`: `FREE` clears the three flags and the IV. -/
theorem test_witness_FlagWriters_free :
    ∃ s t : State, step s = .next t ∧ s.ctxLive = true ∧ t.ctxLive = false ∧ s.keyed = true ∧ t.keyed = false ∧
      s.ivValid = true ∧ t.ivValid = false ∧ t.iv ≠ s.iv ∧ Takes s .free :=
  ⟨issuedReady 0x6#32, _, (show step _ = exec .free (placeOperand ⟨0x6#32, [], .host⟩ (issuedReady 0x6#32)) from
    rfl).trans (exec_done rfl (by decide)), rfl, rfl, rfl, rfl, rfl, rfl, by decide,
    rfl, ⟨0x6#32, [], .host⟩, rfl, rfl, by decide⟩

/-- `FlagAndIvWriters`: a reset clears the three flags and the IV. -/
theorem test_witness_FlagWriters_resetClears :
    ∃ s t : State, step s = .next t ∧ s.ctxLive = true ∧ t.ctxLive = false ∧ s.keyed = true ∧ t.keyed = false ∧
      s.ivValid = true ∧ t.ivValid = false ∧ t.iv ≠ s.iv ∧ s.resetIn = .betweenCommands :=
  ⟨{ issuedReady 0x6#32 with resetIn := .betweenCommands }, _, rfl, rfl, rfl, rfl, rfl, rfl, rfl, by decide, rfl⟩

/-- `FlagAndIvWriters`: steps that take a fault, on an illegal word and on a command that breaks its contract, and one that
takes none. -/
theorem test_witness_FlagWriters_fault :
    (∃ s t : State, step s = .next t ∧ s.faulted = false ∧ t.faulted = true ∧
      ∃ c, nextCommand s = some c ∧ BreaksContract c s ∧ decode c.word = .illegalCommand) ∧
    (∃ s t : State, step s = .next t ∧ s.faulted = false ∧ t.faulted = true ∧
      ∃ c, nextCommand s = some c ∧ BreaksContract c s ∧ decode c.word = .command .free) ∧
    (∃ s t : State, step s = .next t ∧ s.faulted = false ∧ t.faulted = false ∧
      ∃ c, nextCommand s = some c ∧ ¬ BreaksContract c s) :=
  ⟨⟨issued 0x7#32 [], _, rfl, rfl, rfl, _, rfl, trivial, by decide⟩,
    ⟨issued 0x6#32 [], _, rfl, rfl, rfl, _, rfl, .inl rfl, by decide⟩,
    ⟨issued 0x1#32 [], _, rfl, rfl, rfl, _, rfl,
      (by decide : ¬ ((issued 0x1#32 []).ctxLive = true ∨ ([] : List Byte).length ≠ 0))⟩⟩

/-- `FlagAndIvWriters`: a step that clears a fault. -/
theorem test_witness_FlagWriters_reset : ∃ s t : State, step s = .next t ∧ s.faulted = true ∧ t.faulted = false :=
  ⟨{ faultedState with resetIn := .betweenCommands }, _, rfl, rfl, rfl⟩

theorem test_witness_PathAndAlgorithmAreFixed :
    ∃ s t : State, step s = .next t ∧ s.ctxLive = true ∧ t.ctxLive = true :=
  ⟨newContext withAes .aes256Ctr, _, rfl, rfl, rfl⟩

theorem test_witness_UnwrittenCellsAreUnread :
    (∃ s t : State, exec .encrypt s = .next t ∧ s.keyed = false) ∧
    (∃ s t : State, exec .decrypt s = .next t ∧ s.ivValid = false) :=
  ⟨⟨newContext portable .aes128Cbc, _, exec_raise rfl (c := .notKeyed) (by decide), rfl⟩,
    ⟨installKey [] 4 (newContext portable .aes128Cbc), _, exec_raise rfl (c := .ivNotSet) (by decide), rfl⟩⟩

theorem test_witness_AnswersHideSecrets :
    (∃ (s : State) (m : Memory) (t u : State), exec .setKey s = .next t ∧
      exec .setKey (withSecrets Schedule.zero Schedule.zero 1#128 { s with scratch := freeScratch 0, mem := m }) = .next u ∧
      t.keyed = true) ∧
    (∃ s t u : State, exec .encrypt s = .next t ∧ exec .encrypt { s with scratch := freeScratch 0 } = .next u ∧
      t.faulted = false ∧ s.len = 32) :=
  ⟨⟨withBuffer (countingKey 16) (newContext portable .aes128Cbc), [], _, _, exec_done rfl (by decide),
      exec_done rfl (by decide), rfl⟩,
    ⟨readyCbc, _, _, exec_done rfl (by decide), exec_done rfl (by decide), rfl, rfl⟩⟩

/-- `ForwardScheduleRecurrence`, `KeyAssistGivesSchedule`: each kind of word, at the ends of its range. -/
theorem test_witness_scheduleIndices :
    (LegalNk 4 ∧ 4 ≤ 43 ∧ 43 < 4 * (4 + 7) ∧ 43 % 4 ≠ 0) ∧ (LegalNk 6 ∧ 6 ≤ 48 ∧ 48 < 4 * (6 + 7) ∧ 48 % 6 = 0) ∧
    (LegalNk 8 ∧ 8 ≤ 52 ∧ 52 < 4 * (8 + 7) ∧ 52 % 8 = 4) ∧ (LegalNk 4 ∧ 4 * (4 + 7) ≤ 44) := by decide

/-- `ScheduleBeginsWithKey`, `DecryptionInvertsEncryption`. -/
theorem test_witness_legalKeys :
    (LegalNk 4 ∧ (countingKey 16).length = 4 * 4) ∧ (LegalNk 6 ∧ (countingKey 24).length = 4 * 6) ∧
    (LegalNk 8 ∧ (countingKey 32).length = 4 * 8) := by decide

/-- `InverseScheduleInnerRows`, `InverseScheduleOuterRows`, `EngineIsStepwiseAes`: the first and last rows. -/
theorem test_witness_inverseRows :
    ∃ nr r j i : Nat, nr ≤ 14 ∧ 0 < nr ∧ 0 < r ∧ r < nr ∧ j < 4 ∧ 4 * (nr + 1) ≤ i := ⟨14, 13, 3, 60, by decide⟩

theorem test_witness_SchedulesDependOnKeyOnly :
    ∃ s u : State, s.faulted = false ∧ u.faulted = false ∧ s.ctxLive = true ∧ u.ctxLive = true ∧ s.len = keyBytes s.alg ∧
      u.len = keyBytes u.alg ∧ bufferBytes s = bufferBytes u ∧ s.impl ≠ u.impl ∧ s.alg ≠ u.alg :=
  ⟨withBuffer (countingKey 16) (newContext portable .aes128Cbc), withBuffer (countingKey 16) (newContext withAes .aes128Ctr),
    rfl, rfl, rfl, rfl, rfl, rfl, rfl, by decide, by decide⟩

theorem test_witness_PathsAreByteIdentical :
    ∃ s t : State, exec .encrypt (withImpl .portable s) = .next t ∧ t.faulted = false :=
  ⟨readyCbc, _, exec_done rfl (by decide), rfl⟩

theorem test_witness_CounterIncrement :
    (∃ c : Block, ∀ j : Fin 16, 0 < j.val → blockByte c j.val = 0xFF#8) ∧
    (∃ c : Block, ¬ ∀ j : Fin 16, 14 < j.val → blockByte c j.val = 0xFF#8) :=
  ⟨⟨0x00ffffffffffffffffffffffffffffff#128, by decide⟩, ⟨0#128, by decide⟩⟩

theorem test_witness_CbcRoundTrip : ∃ s : State, BlockReady s ∧ modeOf s.alg = .cbc ∧ Inv s :=
  ⟨readyCbc, readyCbc_ready, rfl,
    { fault := by decide
      noContext := fun h => by cases h
      impl := fun _ => rfl
      unkeyed := fun h => by cases h
      noIv := fun h => by cases h
      keyed := fun _ => ⟨countingKey 16, by decide, rfl, rfl, rfl⟩
      buffer := readyCbc_buffer }⟩

theorem test_witness_CtrIsItsOwnInverse : ∃ s : State, BlockReady s ∧ modeOf s.alg = .ctr ∧ BufferInv s :=
  ⟨readyCtr, readyCtr_ready, rfl, readyCtr_buffer⟩

theorem test_witness_SplittingInvariance :
    (∃ (s : State) (p q : List Byte), BlockReady (withBuffer (p ++ q) s) ∧ p.length % 16 = 0 ∧ q.length % 16 = 0 ∧
      (p = [] ∨ q = [] → s.cfg.zeroLen = .noop) ∧ p.length = 32 ∧ q.length = 32) ∧
    (∃ (s : State) (p q : List Byte), BlockReady (withBuffer (p ++ q) s) ∧ p.length % 16 = 0 ∧ q.length % 16 = 0 ∧
      (p = [] ∨ q = [] → s.cfg.zeroLen = .noop) ∧ p = []) :=
  ⟨⟨readyCbc, countingKey 32, countingKey 32, by decide⟩, ⟨readyCtr, [], countingKey 16, by decide⟩⟩

end Sys2Proof.Tests
end

section
/-! Bytes of a word under exclusive or and rotation, and the product of GF(2^8) as a linear map
(spec/00_scope.md R10, spec/40_tables.md R81, R86). -/

namespace Sys2Proof.Machine

theorem beU32_xor (a0 a1 a2 a3 b0 b1 b2 b3 : Byte) :
    beU32 a0 a1 a2 a3 ^^^ beU32 b0 b1 b2 b3 = beU32 (a0 ^^^ b0) (a1 ^^^ b1) (a2 ^^^ b2) (a3 ^^^ b3) := by
  change (a0 ++ a1 ++ a2 ++ a3 : BitVec (8 + 8 + 8 + 8)) ^^^ (b0 ++ b1 ++ b2 ++ b3) = _
  simp only [BitVec.xor_append, beU32]

theorem wordByte_xor (u v : Word) (k : Nat) : wordByte (u ^^^ v) k = wordByte u k ^^^ wordByte v k :=
  BitVec.extractLsb'_xor

theorem rotr32_beU32 (b0 b1 b2 b3 : Byte) :
    rotr32 (beU32 b0 b1 b2 b3) 8 = beU32 b3 b0 b1 b2 ∧ rotr32 (beU32 b0 b1 b2 b3) 16 = beU32 b2 b3 b0 b1 ∧
      rotr32 (beU32 b0 b1 b2 b3) 24 = beU32 b1 b2 b3 b0 := by
  refine ⟨?_, ?_, ?_⟩ <;>
    (apply BitVec.eq_of_getLsbD_eq; intro i hi
     simp only [rotr32, beU32, BitVec.getLsbD_rotateRight, BitVec.getLsbD_append]
     interval_cases i <;> simp)

/-- Four bytes shifted to their places, as R118 and R121 pack a column, are the big-endian word of them. -/
theorem or_shifted_bytes (b0 b1 b2 b3 : Byte) :
    (b0.zeroExtend 32 <<< 24) ||| (b1.zeroExtend 32 <<< 16) ||| (b2.zeroExtend 32 <<< 8) ||| b3.zeroExtend 32 =
      beU32 b0 b1 b2 b3 := by
  apply BitVec.eq_of_getLsbD_eq
  intro i hi
  simp only [beU32, BitVec.getLsbD_append, BitVec.getLsbD_or, BitVec.getLsbD_shiftLeft, BitVec.truncate_eq_setWidth,
    BitVec.getLsbD_setWidth]
  interval_cases i <;> simp

theorem gmulTerm_xor (a b c : Byte) (i : Nat) : gmulTerm a (b ^^^ c) i = gmulTerm a b i ^^^ gmulTerm a c i := by
  cases hb : b.getLsbD i <;> cases hc : c.getLsbD i <;> simp [gmulTerm, hb, hc]

theorem gmul_xor (a b c : Byte) : gmul a (b ^^^ c) = gmul a b ^^^ gmul a c := by
  simp only [gmul, gmulTerm_xor]
  ac_rfl

@[simp] theorem gmul_zero (a : Byte) : gmul a 0#8 = 0#8 := by simp [gmul, gmulTerm]

theorem sinv_sbox (b : Byte) : sinv (sbox b) = b := by revert b; decide +kernel

theorem mixColumn_beU32 (a0 a1 a2 a3 : Byte) : mixColumn (beU32 a0 a1 a2 a3) =
    beU32 (gmul 2#8 a0 ^^^ gmul 3#8 a1 ^^^ a2 ^^^ a3) (a0 ^^^ gmul 2#8 a1 ^^^ gmul 3#8 a2 ^^^ a3)
      (a0 ^^^ a1 ^^^ gmul 2#8 a2 ^^^ gmul 3#8 a3) (gmul 3#8 a0 ^^^ a1 ^^^ a2 ^^^ gmul 2#8 a3) := by
  obtain ⟨h0, h1, h2, h3⟩ := wordByte_beU32 a0 a1 a2 a3
  simp only [mixColumn, h0, h1, h2, h3]

theorem invMixColumn_beU32 (a0 a1 a2 a3 : Byte) : invMixColumn (beU32 a0 a1 a2 a3) =
    beU32 (gmul 0x0E#8 a0 ^^^ gmul 0x0B#8 a1 ^^^ gmul 0x0D#8 a2 ^^^ gmul 0x09#8 a3)
      (gmul 0x09#8 a0 ^^^ gmul 0x0E#8 a1 ^^^ gmul 0x0B#8 a2 ^^^ gmul 0x0D#8 a3)
      (gmul 0x0D#8 a0 ^^^ gmul 0x09#8 a1 ^^^ gmul 0x0E#8 a2 ^^^ gmul 0x0B#8 a3)
      (gmul 0x0B#8 a0 ^^^ gmul 0x0D#8 a1 ^^^ gmul 0x09#8 a2 ^^^ gmul 0x0E#8 a3) := by
  obtain ⟨h0, h1, h2, h3⟩ := wordByte_beU32 a0 a1 a2 a3
  simp only [invMixColumn, h0, h1, h2, h3]

theorem invMixColumn_xor (u v : Word) : invMixColumn (u ^^^ v) = invMixColumn u ^^^ invMixColumn v := by
  simp only [invMixColumn, wordByte_xor, gmul_xor, beU32_xor]
  congr 1 <;> ac_rfl

end Sys2Proof.Machine
end

section
/-! The round engine's steps are those of the cipher written step by step (spec/40_tables.md R92,
spec/41_key_schedule.md R106 to R108, spec/42_round_engine.md R116 to R121). -/

namespace Sys2Proof.Machine

open Sys2Proof.Safety

-- The T-tables

/-- The four E tables are SubBytes and MixColumns of one column (R92 (a)). -/
theorem eTables_eq_mixColumn (a0 a1 a2 a3 : Byte) :
    e0 a0 ^^^ e1 a1 ^^^ e2 a2 ^^^ e3 a3 = mixColumn (beU32 (sbox a0) (sbox a1) (sbox a2) (sbox a3)) := by
  simp only [e1, e2, e3, e0, rotr32_beU32, beU32_xor, mixColumn_beU32]

theorem d0_eq_beU32 (b : Byte) :
    d0 b = beU32 (gmul 0x0E#8 (sinv b)) (gmul 0x09#8 (sinv b)) (gmul 0x0D#8 (sinv b)) (gmul 0x0B#8 (sinv b)) := by
  simp [d0, invMixColumn_beU32]

/-- The four D tables are InvSubBytes and InvMixColumns of one column. -/
theorem dTables_eq_invMixColumn (a0 a1 a2 a3 : Byte) :
    d0 a0 ^^^ d1 a1 ^^^ d2 a2 ^^^ d3 a3 = invMixColumn (beU32 (sinv a0) (sinv a1) (sinv a2) (sinv a3)) := by
  simp only [d1, d2, d3, d0_eq_beU32, rotr32_beU32, beU32_xor, invMixColumn_beU32]

/-- `SBOX` before the D tables cancels their `SINV`, so an inner word of the inverse schedule is InvMixColumn (R107). -/
theorem invWord_eq_invMixColumn (t : Word) : invWord t = invMixColumn t := by
  rw [invWord, dTables_eq_invMixColumn]
  simp only [sinv_sbox, beU32_wordByte]

-- One round

theorem encLast_eq_beU32 (s : Cols) (i : Nat) : encLast s i =
    beU32 (sbox (wordByte (col s i) 0)) (sbox (wordByte (col s (i + 1)) 1)) (sbox (wordByte (col s (i + 2)) 2))
      (sbox (wordByte (col s (i + 3)) 3)) := or_shifted_bytes ..

theorem decLast_eq_beU32 (s : Cols) (i : Nat) : decLast s i =
    beU32 (sinv (wordByte (col s i) 0)) (sinv (wordByte (col s (i + 3)) 1)) (sinv (wordByte (col s (i + 2)) 2))
      (sinv (wordByte (col s (i + 1)) 3)) := or_shifted_bytes ..

/-- A full encryption round is a final one with MixColumn. -/
theorem encRound_eq_mixColumn (s : Cols) (i : Nat) : encRound s i = mixColumn (encLast s i) := by
  rw [encRound, eTables_eq_mixColumn, encLast_eq_beU32]

/-- A full decryption round is a final one with InvMixColumn. -/
theorem decRound_eq_invMixColumn (s : Cols) (i : Nat) : decRound s i = invMixColumn (decLast s i) := by
  rw [decRound, dTables_eq_invMixColumn, decLast_eq_beU32]

theorem colsOf_encLast (s : Cols) : colsOf encLast s = shiftRows (subBytes s) := by
  simp [colsOf, shiftRows, subBytes, encLast_eq_beU32, col, subWord, wordByte_beU32]

theorem colsOf_decLast (s : Cols) : colsOf decLast s = invSubBytes (invShiftRows s) := by
  simp [colsOf, invSubBytes, invShiftRows, decLast_eq_beU32, col, wordByte_beU32]

theorem colsOf_encRound (s : Cols) : colsOf encRound s = mixColumns (shiftRows (subBytes s)) := by
  simp only [← colsOf_encLast, colsOf, mixColumns, encRound_eq_mixColumn]

theorem colsOf_decRound (s : Cols) : colsOf decRound s = invMixColumns (invSubBytes (invShiftRows s)) := by
  simp only [← colsOf_decLast, colsOf, invMixColumns, decRound_eq_invMixColumn]

/-- AddRoundKey before InvMixColumns is AddRoundKey after it with the transformed round key. -/
theorem invMixColumns_addKey (s k : Cols) :
    invMixColumns (addKey s k) = addKey (invMixColumns s) (invMixColumns k) := by
  simp only [invMixColumns, addKey, invMixColumn_xor]

-- The round keys of the inverse schedule

theorem schedWord_invExpand (w : Schedule) (nr : Nat) {i : Nat} (h : i < 60) :
    schedWord (invExpand w nr) i = invExpandWord w nr i := by
  simp [schedWord, invExpand, Vector.getD, h]

/-- An outer word of the inverse schedule is the forward word of the mirrored round. -/
theorem schedWord_invExpand_outer (w : Schedule) {nr r j : Nat} (hr : r = 0 ∨ r = nr) (hnr : nr ≤ 14) (hj : j < 4) :
    schedWord (invExpand w nr) (4 * r + j) = schedWord w (4 * (nr - r) + j) := by
  rw [schedWord_invExpand w nr (by omega), invExpandWord, show (4 * r + j) / 4 = r by omega,
    show (4 * r + j) % 4 = j by omega, if_pos hr, Nat.mul_comm]

/-- An inner word of the inverse schedule is InvMixColumn of the forward word of the mirrored round. -/
theorem schedWord_invExpand_inner (w : Schedule) {nr r j : Nat} (h0 : 0 < r) (hr : r < nr) (hnr : nr ≤ 14) (hj : j < 4) :
    schedWord (invExpand w nr) (4 * r + j) = invMixColumn (schedWord w (4 * (nr - r) + j)) := by
  rw [schedWord_invExpand w nr (by omega), invExpandWord, show (4 * r + j) / 4 = r by omega,
    show (4 * r + j) % 4 = j by omega, if_neg (by omega), if_pos hr, invWord_eq_invMixColumn, Nat.mul_comm]

theorem roundKey_invExpand_outer (w : Schedule) {nr r : Nat} (hr : r = 0 ∨ r = nr) (hnr : nr ≤ 14) :
    roundKey (invExpand w nr) (4 * r) = roundKey w (4 * (nr - r)) := by
  have word {j : Nat} (hj : j < 4) := schedWord_invExpand_outer w hr hnr hj
  simp only [roundKey, Cols.mk.injEq]
  exact ⟨word (j := 0) (by decide), word (by decide), word (by decide), word (by decide)⟩

theorem roundKey_invExpand_inner (w : Schedule) {nr r : Nat} (h0 : 0 < r) (hr : r < nr) (hnr : nr ≤ 14) :
    roundKey (invExpand w nr) (4 * r) = invMixColumns (roundKey w (4 * (nr - r))) := by
  have word {j : Nat} (hj : j < 4) := schedWord_invExpand_inner w h0 hr hnr hj
  simp only [roundKey, invMixColumns, Cols.mk.injEq]
  exact ⟨word (j := 0) (by decide), word (by decide), word (by decide), word (by decide)⟩

-- All rounds

theorem fullRounds_encRound (w : Schedule) (left r : Nat) (s : Cols) :
    fullRounds encRound w left (4 * r) s = cipherRounds w left r s := by
  induction left generalizing r s with
  | zero => rfl
  | succ left ih => rw [fullRounds, cipherRounds, colsOf_encRound]; exact ih (r + 1) _

/-- The last `left` full decryption rounds run the forward round keys `left` down to 1. -/
theorem fullRounds_decRound (w : Schedule) {nr left : Nat} (hl : left < nr) (hnr : nr ≤ 14) (s : Cols) :
    fullRounds decRound (invExpand w nr) left (4 * (nr - left)) s = invCipherRounds w left s := by
  induction left generalizing s with
  | zero => rfl
  | succ left ih =>
    rw [fullRounds, invCipherRounds, colsOf_decRound, invMixColumns_addKey,
      roundKey_invExpand_inner w (by omega) (by omega) hnr, show nr - (nr - (left + 1)) = left + 1 by omega,
      show 4 * (nr - (left + 1)) + 4 = 4 * (nr - left) by omega, ih (by omega)]

theorem ecbEnc_eq_cipher (w : Schedule) (nr : Nat) (x : Block) : ecbEnc w nr x = cipher w nr x := by
  rw [ecbEnc, runEngine, cipher, colsOf_encLast, ← fullRounds_encRound]

theorem ecbDec_invExpand_eq_invCipher (w : Schedule) {nr : Nat} (h0 : 0 < nr) (hnr : nr ≤ 14) (y : Block) :
    ecbDec (invExpand w nr) nr y = invCipher w nr y := by
  have first : roundKey (invExpand w nr) 0 = roundKey w (4 * nr) := by
    simpa using roundKey_invExpand_outer w (.inl rfl) hnr
  have last : roundKey (invExpand w nr) (4 * nr) = roundKey w 0 := by
    simpa using roundKey_invExpand_outer w (.inr rfl) hnr
  have inner := fullRounds_decRound w (Nat.sub_lt h0 one_pos) hnr (addKey (colsOfBlock y) (roundKey w (4 * nr)))
  rw [show nr - (nr - 1) = 1 by omega] at inner
  rw [ecbDec, runEngine, invCipher, colsOf_decLast, first, last, inner]

/-- Settles O52: both engines compute the stepwise cipher's rounds, the decryption engine because InvMixColumns is linear
and the inverse schedule holds the transformed round keys in reverse. -/
theorem engineIsStepwiseAes : Obligations.EngineIsStepwiseAes :=
  ⟨ecbEnc_eq_cipher, fun w _ y h0 hnr => ecbDec_invExpand_eq_invCipher w h0 hnr y⟩

end Sys2Proof.Machine
end

section
/-! One step of the core and one creation of a context (spec/00_scope.md R7, R9, spec/45_commands.md R160, R161). -/

namespace Sys2Proof.Machine

open Sys2Proof.Safety

/-- On a core that may go on, a step takes the host's next command. -/
theorem step_eq_takeCommand {s : State} {c : Command} (hr : s.resetIn = .released) (hf : s.faulted = false)
    (hn : nextCommand s = some c) : step s = takeCommand c s := by
  simp [step, hr, hf, hn]

/-- Taking a decoded command of the host runs it with its operand placed. -/
theorem takeCommand_eq_exec {c : Command} {i : Instr} (s : State) (ha : c.agent = .host)
    (hd : decode c.word = .command i) : takeCommand c s = exec i (placeOperand c s) := by
  simp [takeCommand, ha, hd]

/-- Settles O6: the step takes the command, and taking it is `exec` with the operand placed. -/
theorem stepRunsDecodedCommand : Obligations.StepRunsDecodedCommand := by
  intro s c i hr hf hn ha hd
  refine ⟨wellFormed_of_decode hd, ?_⟩
  rw [step_eq_takeCommand hr hf hn, takeCommand_eq_exec s ha hd, placeOperand]

theorem keyBytes_algOfCode (code : BitVec 3) (h : code ≠ 7#3) : keyBytes ((algOfCode code).getD .aes128Cbc) =
    if code = 0#3 ∨ code = 4#3 then 16 else if code = 1#3 ∨ code = 5#3 then 24 else 32 := by
  revert code; decide

theorem modeOf_algOfCode (code : BitVec 3) (h : code ≠ 7#3) :
    modeOf ((algOfCode code).getD .aes128Cbc) = if code.toNat ≤ 3 then .cbc else .ctr := by
  revert code; decide

theorem selectImpl_eq_ite (p : Params) :
    selectImpl p = if p.hwCompiled ∧ p.hwAvailable then .hardware else .portable := by
  simp [selectImpl]

/-- Settles O18: the checks of `NEW` pass, so it leaves `createContext` of the code's algorithm. -/
theorem newCreatesContext : Obligations.NewCreatesContext := by
  intro s code hf hcode hlive hlen
  have check : commandCheck (.new code) s = none := (checkNew_eq_none code s).mpr ⟨hcode, hlive, hlen⟩
  refine ⟨_, exec_done hf check, ?_⟩
  simp [commandDone, algCode_getD code hcode, keyBytes_algOfCode code hcode, modeOf_algOfCode code hcode,
    selectImpl_eq_ite, complete_answer, SameFault]

end Sys2Proof.Machine
end

section
/-! The hardware path gives the portable path's bytes (spec/44_hardware_path.md R145 to R155). -/

namespace Sys2Proof.Machine

-- Blocks as columns

/-- Word `j` of the block of four columns is column `j`. -/
theorem blockWord_blockOfCols (s : Cols) {j : Nat} (hj : j < 4) : blockWord (blockOfCols s) j = col s j := by
  have column (p : Cols → Word) : p (colsOfBlock (blockOfCols s)) = p s := congrArg p (colsOfBlock_blockOfCols s)
  interval_cases j
  · exact column Cols.c0
  · exact column Cols.c1
  · exact column Cols.c2
  · exact column Cols.c3

theorem blockOfCols_xor (s k : Cols) : blockOfCols s ^^^ blockOfCols k = blockOfCols (addKey s k) := by
  change (s.c0 ++ s.c1 ++ s.c2 ++ s.c3 : BitVec (32 + 32 + 32 + 32)) ^^^ (k.c0 ++ k.c1 ++ k.c2 ++ k.c3) = _
  simp only [BitVec.xor_append, blockOfCols, addKey]

theorem col_roundKey (w : Schedule) (kp : Nat) {j : Nat} (hj : j < 4) : col (roundKey w kp) j = schedWord w (kp + j) := by
  interval_cases j <;> rfl

theorem blockWord_schedRow (w : Schedule) (r : Nat) {j : Nat} (hj : j < 4) :
    blockWord (schedRow w r) j = schedWord w (4 * r + j) := by
  rw [schedRow, blockWord_blockOfCols _ hj, col_roundKey _ _ hj]

theorem blockWord_aesImc (rk : Block) {j : Nat} (hj : j < 4) :
    blockWord (aesImc rk) j = invMixColumn (blockWord rk j) := by
  rw [aesImc, blockWord_blockOfCols _ hj]
  interval_cases j <;> rfl

-- The block rounds

/-- An AES instruction whose round is `f` makes `f`'s rounds of the portable engine (R152, R155). -/
theorem hwRounds_eq_fullRounds {g : Block → Block → Block} {f : Cols → Nat → Word}
    (hg : ∀ st rk, g st rk = blockOfCols (addKey (colsOf f (colsOfBlock st)) (colsOfBlock rk)))
    (w : Schedule) (left r : Nat) (s : Cols) :
    hwRounds g w left r (blockOfCols s) = blockOfCols (fullRounds f w left (4 * r) s) := by
  induction left generalizing r s with
  | zero => rfl
  | succ left ih => rw [hwRounds, hg, schedRow, colsOfBlock_blockOfCols, colsOfBlock_blockOfCols, ih]; rfl

theorem xor_schedRow_zero (w : Schedule) (x : Block) :
    x ^^^ schedRow w 0 = blockOfCols (addKey (colsOfBlock x) (roundKey w 0)) := by
  rw [← blockOfCols_xor, blockOfCols_colsOfBlock, schedRow]

theorem hwEcbEnc_eq_ecbEnc (w : Schedule) (nr : Nat) (x : Block) : hwEcbEnc w nr x = ecbEnc w nr x := by
  rw [hwEcbEnc, xor_schedRow_zero, hwRounds_eq_fullRounds (g := aesEnc) (f := encRound) fun _ _ => rfl, aesEncLast,
    schedRow, colsOfBlock_blockOfCols, colsOfBlock_blockOfCols]
  rfl

theorem hwEcbDec_eq_ecbDec (w : Schedule) (nr : Nat) (y : Block) : hwEcbDec w nr y = ecbDec w nr y := by
  rw [hwEcbDec, xor_schedRow_zero, hwRounds_eq_fullRounds (g := aesDec) (f := decRound) fun _ _ => rfl, aesDecLast,
    schedRow, colsOfBlock_blockOfCols, colsOfBlock_blockOfCols]
  rfl

-- The inverse schedule and the counter

/-- Word `j` of row `r` of the hardware path's inverse schedule is that of R106 (R151). -/
theorem blockWord_hwInvRow (w : Schedule) (nr i : Nat) :
    blockWord (hwInvRow w nr (i / 4)) (i % 4) = invExpandWord w nr i := by
  have hj : i % 4 < 4 := Nat.mod_lt _ (by decide)
  rw [hwInvRow, invExpandWord, Nat.mul_comm (nr - i / 4)]
  split
  · rw [blockWord_schedRow w _ hj]
  · split
    · rw [blockWord_aesImc _ hj, blockWord_schedRow w _ hj, invWord_eq_invMixColumn]
    · simp [blockWord]

theorem hwInvExpand_eq_invExpand (w : Schedule) (nr : Nat) : hwInvExpand w nr = invExpand w nr := by
  simp only [hwInvExpand, invExpand, blockWord_hwInvRow]

theorem toNat_append_halves (hi lo : BitVec 64) : (hi ++ lo).toNat = hi.toNat * 2 ^ 64 + lo.toNat := by
  rw [BitVec.toNat_append, ← Nat.shiftLeft_add_eq_or_of_lt lo.isLt, Nat.shiftLeft_eq]

/-- The carry of the low half into the high half is the carry of one 128-bit addition (R153). -/
theorem hwCtrInc_eq_ctrInc (c : Block) : hwCtrInc c = ctrInc c := by
  have half {a : Nat} : (c.extractLsb' a 64).toNat = c.toNat / 2 ^ a % 2 ^ 64 := by
    rw [BitVec.extractLsb'_toNat, Nat.shiftRight_eq_div_pow]
  apply BitVec.eq_of_toNat_eq
  have hc := c.isLt
  simp only [hwCtrInc, ctrInc, toNat_append_halves, BitVec.toNat_add, BitVec.toNat_sub]
  by_cases h : c.extractLsb' 0 64 + 1#64 = 0#64
  · have carry := congrArg BitVec.toNat h
    simp only [BitVec.toNat_add, half] at carry
    simp only [h, if_true, half, BitVec.toNat_ofNat] at carry ⊢
    omega
  · have carry : (c.extractLsb' 0 64 + 1#64).toNat ≠ 0 := fun e => h (BitVec.eq_of_toNat_eq e)
    simp only [BitVec.toNat_add, half] at carry
    simp only [h, if_false, half, BitVec.toNat_ofNat] at carry ⊢
    omega

-- The functions a context's path selects

theorem blockEnc_eq_ecbEnc (p : Impl) (w : Schedule) (nr : Nat) : blockEnc p w nr = ecbEnc w nr := by
  cases p with
  | portable => rfl
  | hardware => exact funext (hwEcbEnc_eq_ecbEnc w nr)

theorem blockDec_eq_ecbDec (p : Impl) (w : Schedule) (nr : Nat) : blockDec p w nr = ecbDec w nr := by
  cases p with
  | portable => rfl
  | hardware => exact funext (hwEcbDec_eq_ecbDec w nr)

theorem pathCtrInc_eq_ctrInc (p : Impl) : pathCtrInc p = ctrInc := by
  cases p with
  | portable => rfl
  | hardware => exact funext hwCtrInc_eq_ctrInc

theorem pathInvExpand_eq_invExpand (p : Impl) (w : Schedule) (nr : Nat) : pathInvExpand p w nr = invExpand w nr := by
  cases p with
  | portable => rfl
  | hardware => exact hwInvExpand_eq_invExpand w nr

end Sys2Proof.Machine
end

section
/-! The invariant of the core between commands: it holds after reset, and every operation keeps it (spec/10_state.md R16 to
R25, R33 to R35). -/

namespace Sys2Proof.Safety

open Sys2Proof.Machine

variable {s t : State}

theorem inv_resetWith (p : Params) : Inv (State.resetWith p) where
  fault := ⟨nofun, fun h => absurd rfl h⟩
  noContext := fun _ => ⟨rfl, rfl, rfl, rfl, rfl⟩
  impl := nofun
  unkeyed := fun _ => ⟨rfl, rfl, rfl⟩
  noIv := fun _ => rfl
  keyed := nofun
  buffer := ⟨rfl, rfl⟩

/-- Settles O16: every field has its value of R33. -/
theorem resetMeetsInvariant : Obligations.ResetMeetsInvariant :=
  ⟨inv_resetWith State.resetParams, inv_resetWith⟩

/-- A reset keeps the buffer and nothing else the invariant speaks of. -/
theorem Inv.hardwareReset (h : Inv s) : Inv (hardwareReset s) :=
  { inv_resetWith s.cfg with buffer := h.buffer }

theorem Inv.placeOperand (h : Inv s) (c : Command) : Inv (placeOperand c s) :=
  { h with buffer := ⟨Memory.wf_ofBytes _, Memory.below_ofBytes _⟩ }

theorem Inv.ignoreCommand (h : Inv s) : Inv (ignoreCommand s) := { h with }

theorem Inv.raiseFault (h : Inv s) {c : Cause} (hc : c ≠ .none) : Inv (raiseFault c s) :=
  { h with fault := ⟨fun _ => hc, fun _ => rfl⟩ }

/-- Completing a command in a live context keeps the invariant, whatever scratch state it leaves. -/
theorem Inv.complete (h : Inv s) (live : s.ctxLive = true) (sc : Scratch) (b : Bool) : Inv (complete sc b s) :=
  { h with noContext := fun dead => by simp [live] at dead }

/-- Without a context the cells are unwritten, so a new context starts with zeros in them (R34). -/
theorem Inv.createContext (h : Inv s) (dead : s.ctxLive = false) (a : Alg) : Inv (createContext a s) := by
  obtain ⟨unkeyed, noIv, -⟩ := h.noContext dead
  obtain ⟨-, fwd, inv⟩ := h.unkeyed unkeyed
  exact { h with
    noContext := nofun
    impl := fun _ => rfl
    unkeyed := fun _ => ⟨rfl, fwd, inv⟩
    noIv := fun _ => h.noIv noIv
    keyed := nofun }

theorem keyOperand_length (s : State) : (keyOperand s).length = s.len := by
  simp [keyOperand, bufferBytes, Memory.readBytes]

/-- `SET_KEY` writes both schedules whole, of the one key in the buffer (R109), on either path (R147). -/
theorem Inv.installKey (h : Inv s) (live : s.ctxLive = true) (hlen : s.len = keyBytes s.alg) :
    Inv (installKey (keyOperand s) (s.len / 4) s) :=
  { h with
    noContext := fun dead => by simp [live] at dead
    unkeyed := nofun
    keyed := fun _ => ⟨keyOperand s, by simp [keyOperand_length, hlen], by simp [hlen], by
      simp [pathInvExpand_eq_invExpand, hlen], by simp [hlen]⟩ }

theorem Inv.installIv (h : Inv s) (live : s.ctxLive = true) (v : Block) : Inv (installIv v s) :=
  { h with
    noContext := fun dead => by simp [live] at dead
    noIv := nofun }

-- The block commands

theorem encryptSpan_eq_writeSpan (s : State) : ∃ r, encryptSpan s = writeSpan r s := by
  rw [encryptSpan]
  cases modeOf s.alg with
  | cbc => exact ⟨_, rfl⟩
  | ctr => exact ⟨_, rfl⟩

theorem decryptSpan_eq_writeSpan (s : State) : ∃ r, decryptSpan s = writeSpan r s := by
  rw [decryptSpan]
  cases modeOf s.alg with
  | cbc => exact ⟨_, rfl⟩
  | ctr => exact ⟨_, rfl⟩

theorem spanBlocks_le (s : State) : 16 * (0 + spanBlocks s) ≤ s.len := by rw [spanBlocks]; omega

theorem bufferInv_encryptSpan (h : BufferInv s) : BufferInv (encryptSpan s) := by
  obtain ⟨wf, below⟩ := h
  rw [encryptSpan]
  cases modeOf s.alg with
  | cbc => exact cbcEncLoop_buffer _ _ _ _ _ wf below (spanBlocks_le s)
  | ctr => exact ctrLoop_buffer _ _ _ _ _ _ wf below (spanBlocks_le s)

theorem bufferInv_decryptSpan (h : BufferInv s) : BufferInv (decryptSpan s) := by
  obtain ⟨wf, below⟩ := h
  rw [decryptSpan]
  cases modeOf s.alg with
  | cbc => exact cbcDecLoop_buffer _ _ _ _ _ wf below (spanBlocks_le s)
  | ctr => exact ctrLoop_buffer _ _ _ _ _ _ wf below (spanBlocks_le s)

/-- A mode machine's result keeps the invariant when it keeps the buffer's form, in a context with an IV. -/
theorem Inv.writeSpan (h : Inv s) (ivValid : s.ivValid = true) {r : Memory × Block}
    (buffer : BufferInv (Machine.writeSpan r s)) : Inv (writeSpan r s) :=
  { h with
    noIv := fun unset => by simp [ivValid] at unset
    buffer := buffer }

theorem Inv.encryptSpan (h : Inv s) (ivValid : s.ivValid = true) : Inv (encryptSpan s) := by
  have buffer := bufferInv_encryptSpan h.buffer
  obtain ⟨r, hr⟩ := encryptSpan_eq_writeSpan s
  rw [hr] at buffer ⊢
  exact h.writeSpan ivValid buffer

theorem Inv.decryptSpan (h : Inv s) (ivValid : s.ivValid = true) : Inv (decryptSpan s) := by
  have buffer := bufferInv_decryptSpan h.buffer
  obtain ⟨r, hr⟩ := decryptSpan_eq_writeSpan s
  rw [hr] at buffer ⊢
  exact h.writeSpan ivValid buffer

/-- `FREE` leaves every element of the context at zero (R35). -/
theorem Inv.free (h : Inv s) : Inv (Machine.complete Scratch.zero false (wipeContext s)) :=
  { h with
    noContext := fun _ => ⟨rfl, rfl, rfl, rfl, rfl⟩
    impl := nofun
    unkeyed := fun _ => ⟨rfl, rfl, rfl⟩
    noIv := fun _ => rfl
    keyed := nofun }

theorem Inv.commandDone (h : Inv s) {i : Instr} (hc : commandCheck i s = none) : Inv (commandDone i s) := by
  cases i with
  | new code =>
    obtain ⟨-, dead, -⟩ := (checkNew_eq_none code s).mp hc
    exact (h.createContext dead _).complete rfl _ _
  | setKey =>
    obtain ⟨live, hlen⟩ := (checkSetKey_eq_none s).mp hc
    exact (h.installKey live hlen).complete live _ _
  | setIv =>
    obtain ⟨live, -⟩ := (checkSetIv_eq_none s).mp hc
    exact (h.installIv live _).complete live _ _
  | encrypt =>
    obtain ⟨live, -, ivValid, -⟩ := (checkBlock_eq_none s).mp hc
    exact (h.encryptSpan ivValid).complete (by simpa using live) _ _
  | decrypt =>
    obtain ⟨live, -, ivValid, -⟩ := (checkBlock_eq_none s).mp hc
    exact (h.decryptSpan ivValid).complete (by simpa using live) _ _
  | free => exact h.free

theorem Inv.exec (h : Inv s) {i : Instr} (he : exec i s = .next t) : Inv t := by
  obtain ⟨-, rfl⟩ | ⟨-, c, hc, rfl⟩ | ⟨-, hc, rfl⟩ := exec_cases he
  · exact h.ignoreCommand
  · exact h.raiseFault fun e => commandCheck_ne_noCause i s (e ▸ hc)
  · exact h.commandDone hc

/-- Settles O17: a step is a reset, a wait, or a command on the placed operand, and each keeps the invariant. -/
theorem stepKeepsInvariant : Obligations.StepKeepsInvariant := by
  intro s t h hs
  obtain ⟨-, rfl⟩ | ⟨-, -, -, rfl⟩ | ⟨-, -, c, -, -, ⟨-, rfl⟩ | ⟨i, -, he⟩⟩ := step_cases hs
  · exact h.hardwareReset
  · exact h
  · exact (h.placeOperand c).raiseFault (by decide)
  · exact (h.placeOperand c).exec he

end Sys2Proof.Safety
end

section
/-! What every command keeps, what a reset sets, and what the commands outside the block modes write (spec/10_state.md R14,
R26, R33, spec/45_commands.md R160 to R166). -/

namespace Sys2Proof.Machine

open Sys2Proof.Safety

-- What no completed command changes

section
variable (i : Instr) (s : State)

@[simp] theorem commandDone_cfg : (commandDone i s).cfg = s.cfg := by cases i <;> simp [commandDone]
@[simp] theorem commandDone_prog : (commandDone i s).prog = s.prog := by cases i <;> simp [commandDone]
@[simp] theorem commandDone_resetIn : (commandDone i s).resetIn = s.resetIn := by cases i <;> simp [commandDone]
@[simp] theorem commandDone_len : (commandDone i s).len = s.len := by cases i <;> simp [commandDone]
@[simp] theorem commandDone_faulted : (commandDone i s).faulted = s.faulted := by cases i <;> simp [commandDone]
@[simp] theorem commandDone_faultCause : (commandDone i s).faultCause = s.faultCause := by cases i <;> simp [commandDone]
@[simp] theorem commandDone_pc : (commandDone i s).pc = s.pc + 1 := by cases i <;> simp [commandDone]

end

/-- Settles O12: a fault leaves the command index, and every completed command advances it. -/
theorem commandIndexAdvances : Obligations.CommandIndexAdvances := by
  intro i s t hf he
  obtain ⟨hf', -⟩ | ⟨-, c, -, rfl⟩ | ⟨-, -, rfl⟩ := exec_cases he
  · simp [hf] at hf'
  · exact .inr ⟨rfl, rfl⟩
  · exact .inl ⟨by simp [hf], by simp⟩

-- Reset

/-- STATUS reads 0 on a core without a context and without a fault (R26, R33). -/
theorem statusWord_eq_zero {s : State} (live : s.ctxLive = false) (keyed : s.keyed = false) (ivValid : s.ivValid = false)
    (impl : s.impl = .portable) (alg : s.alg = .aes128Cbc) (nr : s.nr = 0#5) (faulted : s.faulted = false)
    (cause : s.faultCause = .none) : statusWord s = 0#32 := by
  rw [statusWord, live, keyed, ivValid, impl, alg, nr, faulted, cause]
  decide

/-- Settles O13. -/
theorem resetState : Obligations.ResetState :=
  ⟨rfl, rfl, rfl, rfl, rfl, rfl, rfl, rfl, fun i => ⟨schedWord_zero i, schedWord_zero i⟩, rfl, rfl, rfl, rfl⟩

theorem step_eq_hardwareReset {s : State} (hr : s.resetIn = .betweenCommands) : step s = .next (hardwareReset s) := by
  simp [step, hr]

/-- Settles O14: the step is the reset, which every field of the core takes from R33. -/
theorem hardwareResetSetsEveryField : Obligations.HardwareResetSetsEveryField := by
  intro s hr
  refine ⟨_, step_eq_hardwareReset hr, ?_⟩
  exact ⟨rfl, rfl, rfl, rfl, rfl, rfl, rfl, rfl, rfl, rfl, rfl, rfl, rfl,
    statusWord_eq_zero rfl rfl rfl rfl rfl rfl rfl rfl, rfl, rfl, ⟨rfl, fun _ => rfl⟩, rfl, rfl⟩

-- Illegal words

/-- A word with a reserved bit or a reserved code is illegal (R62, R64, R67). -/
theorem decode_illegal_of_reserved {w : Word} (h : rsvField w ≠ 0#25 ∨ (algField w ≠ 0#3 ∧ opField w ≠ 1#4) ∨
    (opField w = 1#4 ∧ algField w = 7#3) ∨ opField w = 0#4 ∨ 7 ≤ (opField w).toNat) :
    decode w = .illegalCommand := by
  by_cases hr : rsvField w = 0#25
  · have codes := h.resolve_left (not_not.mpr hr)
    simp only [decode, hr, ne_eq, not_true_eq_false, if_false]
    generalize algField w = alg at codes
    generalize opField w = op at codes
    clear h hr
    revert alg op
    decide
  · simp [decode, hr]

theorem takeCommand_illegal {c : Command} (s : State) (ha : c.agent = .host) (hd : decode c.word = .illegalCommand) :
    takeCommand c s = .next (raiseFault .illegalCommand (placeOperand c s)) := by
  simp [takeCommand, ha, hd]

/-- The operand in the buffer reads back byte for byte. -/
theorem bufferBytes_placeOperand (c : Command) (s : State) : bufferBytes (placeOperand c s) = c.operand := by
  apply List.ext_getElem
  · simp [bufferBytes, Memory.readBytes]
  · intro k _ hk
    simp [bufferBytes, Memory.readBytes, Memory.read_ofBytes, hk]

/-- Settles O3: an illegal word raises the fault on the placed operand, and a fault writes nothing else. -/
theorem reservedBitsFault : Obligations.ReservedBitsFault := by
  refine ⟨fun w => decode_illegal_of_reserved, fun s c hr hf hn ha hd => ?_⟩
  refine ⟨_, (step_eq_takeCommand hr hf hn).trans (takeCommand_illegal s ha hd), ?_⟩
  exact ⟨rfl, rfl, rfl, raiseFault_answer _ _, bufferBytes_placeOperand c s, rfl⟩

-- The commands

theorem toNat_ofNat_rounds (a : Alg) : (BitVec.ofNat 5 (keyBytes a / 4 + 6)).toNat = keyBytes a / 4 + 6 := by
  cases a <;> rfl

/-- Settles O21: the checks of `SET_KEY` pass, and the path does not change the inverse schedule. -/
theorem setKeyInstallsSchedules : Obligations.SetKeyInstallsSchedules := by
  intro s hf live hlen
  have check : commandCheck .setKey s = none := (checkSetKey_eq_none s).mpr ⟨live, hlen⟩
  refine ⟨_, exec_done hf check, ?_⟩
  have rounds := toNat_ofNat_rounds s.alg
  rw [← hlen] at rounds
  simp [commandDone, keyOperand, pathInvExpand_eq_invExpand, rounds, complete_answer, SameFault]

theorem blockByte_ivOperand (s : State) {i : Nat} (hi : i < 16) : blockByte (ivOperand s) i = Memory.read s.mem i := by
  have h := blockByte_spanRead s.mem 0 i hi
  rwa [Nat.mul_zero, Nat.zero_add] at h

/-- Settles O23: the checks of `SET_IV` pass, and the IV is block 0 of the operand. -/
theorem setIvInstallsIv : Obligations.SetIvInstallsIv := by
  intro s hf live hlen
  have check : commandCheck .setIv s = none := (checkSetIv_eq_none s).mpr ⟨live, hlen⟩
  exact ⟨_, exec_done hf check, fun i => blockByte_ivOperand s, rfl, rfl, rfl, rfl, rfl, rfl⟩

/-- Settles O30: the checks of `FREE` pass, and what it leaves is the wiped context with zero scratch state. -/
theorem freeWipesContext : Obligations.FreeWipesContext := by
  intro s hf hcause live hlen
  have check : commandCheck .free s = none := (checkFree_eq_none s).mpr ⟨live, hlen⟩
  have status : statusWord (wipeContext s) = 0#32 := 
    statusWord_eq_zero rfl rfl rfl rfl rfl rfl hf hcause
  refine ⟨_, exec_done hf check, ?_⟩
  simp [commandDone, algCode, complete_answer, status, SameFault]

/-- Settles O33: a command that takes a fault or is ignored leaves every field named, and `NEW` and `FREE` write none of
them but `FREE` the cells. -/
theorem frameNewFree : Obligations.FrameNewFree := by
  intro i s t hi he
  obtain ⟨-, rfl⟩ | ⟨-, c, -, rfl⟩ | ⟨-, -, rfl⟩ := exec_cases he
  · simp [SameHost, SameBuffer, SameFault]
  · simp [SameHost, SameBuffer]
  · obtain ⟨code, rfl⟩ | rfl := hi <;> simp [commandDone, SameHost, SameBuffer, SameFault]

-- STATUS

/-- Settles O38: each field starts where the widths of the fields below it end. -/
theorem statusWordLayout : Obligations.StatusWordLayout := by
  intro s
  refine ⟨?_, ?_, ?_, ?_, ?_, ?_, ?_, ?_, ?_, ?_, ?_, ?_, rfl, rfl, rfl, rfl⟩
  case refine_12 => cases s.faultCause <;> decide
  all_goals
    apply BitVec.eq_of_getLsbD_eq
    intro k hk
    simp only [statusWord, BitVec.getLsbD_extractLsb', BitVec.getLsbD_append]
    interval_cases k <;> simp

end Sys2Proof.Machine
end

section
/-! Who writes the lifecycle flags, the fault bit, the IV, the path and the algorithm (spec/10_state.md R16 to R20, R24,
R25, R36, R138). -/

namespace Sys2Proof.Safety

open Sys2Proof.Machine

/-- The fields of a context that a wait, a fault and an ignored command leave alone. -/
structure SameContext (s t : State) : Prop where
  cfg : t.cfg = s.cfg
  ctxLive : t.ctxLive = s.ctxLive
  keyed : t.keyed = s.keyed
  ivValid : t.ivValid = s.ivValid
  impl : t.impl = s.impl
  alg : t.alg = s.alg
  iv : t.iv = s.iv

/-- What a step does to the context: a reset sets it, a command that completes writes it, and no other step changes it. -/
theorem step_context_cases {s t : State} (h : step s = .next t) :
    (s.resetIn = .betweenCommands ∧ t = hardwareReset s) ∨ SameContext s t ∨
    ∃ i c, Takes s i ∧ commandCheck i (placeOperand c s) = none ∧ t = commandDone i (placeOperand c s) := by
  obtain ⟨hr, rfl⟩ | ⟨-, -, -, rfl⟩ | ⟨hr, hf, c, hn, ha, ⟨-, rfl⟩ | ⟨i, hd, he⟩⟩ := step_cases h
  · exact .inl ⟨hr, rfl⟩
  · exact .inr (.inl ⟨rfl, rfl, rfl, rfl, rfl, rfl, rfl⟩)
  · exact .inr (.inl ⟨rfl, rfl, rfl, rfl, rfl, rfl, rfl⟩)
  · obtain ⟨-, rfl⟩ | ⟨-, e, -, rfl⟩ | ⟨-, hc, rfl⟩ := exec_cases he
    · exact .inr (.inl ⟨rfl, rfl, rfl, rfl, rfl, rfl, rfl⟩)
    · exact .inr (.inl ⟨rfl, rfl, rfl, rfl, rfl, rfl, rfl⟩)
    · exact .inr (.inr ⟨i, c, ⟨hr, c, hn, ha, hd⟩, hc, rfl⟩)

/-- A completed command that changes a flag or the IV is one of its writers: what is true of the command is true of a
writer. -/
theorem commandDone_writers {P : Instr → Prop} {i : Instr} (hP : P i) (s : State) :
    (s.ctxLive = false → (commandDone i s).ctxLive = true → ∃ code, P (.new code)) ∧
    (s.ctxLive = true → (commandDone i s).ctxLive = false → P .free) ∧
    (s.keyed = false → (commandDone i s).keyed = true → P .setKey) ∧
    (s.keyed = true → (commandDone i s).keyed = false → P .free ∨ ∃ code, P (.new code)) ∧
    (s.ivValid = false → (commandDone i s).ivValid = true → P .setIv) ∧
    (s.ivValid = true → (commandDone i s).ivValid = false → P .free ∨ ∃ code, P (.new code)) ∧
    ((commandDone i s).iv ≠ s.iv →
      P .setIv ∨ P .encrypt ∨ P .decrypt ∨ (P .free ∧ (commandDone i s).ctxLive = false)) := by
  cases i with
  | new code =>
    have new : ∃ code, P (.new code) := ⟨code, hP⟩
    simp +contextual [commandDone, new]
  | setKey => simp +contextual [commandDone, hP]
  | setIv => simp +contextual [commandDone, hP]
  | encrypt => simp +contextual [commandDone, hP]
  | decrypt => simp +contextual [commandDone, hP]
  | free => simp +contextual [commandDone, hP]

theorem exec_faulted_iff {i : Instr} {s t : State} (hf : s.faulted = false) (he : exec i s = .next t) :
    t.faulted = true ↔ commandCheck i s ≠ none := by
  obtain ⟨hf', -⟩ | ⟨-, c, hc, rfl⟩ | ⟨-, hc, rfl⟩ := exec_cases he
  · simp [hf] at hf'
  · simp [hc]
  · simp [hc, hf]

/-- On a core without a fault, a step takes one exactly when it takes a command that breaks its contract (R180, R181). -/
theorem step_faulted_iff {s t : State} (hf : s.faulted = false) (h : step s = .next t) :
    t.faulted = true ↔ s.resetIn = .released ∧ ∃ c, nextCommand s = some c ∧ BreaksContract c s := by
  obtain ⟨hr, rfl⟩ | ⟨-, -, hn, rfl⟩ | ⟨hr, -, c, hn, -, ⟨hd, rfl⟩ | ⟨i, hd, he⟩⟩ := step_cases h
  · simp [hr]
  · simp [hn, hf]
  · simp [hr, hn, BreaksContract, hd]
  · simp [exec_faulted_iff (s := placeOperand c s) hf he, hr, hn, breaksContract_iff s hd]

theorem reset_of_step_faulted {s t : State} (hf : s.faulted = true) (h : step s = .next t) :
    s.resetIn = .betweenCommands := by
  obtain ⟨hr, -⟩ | ⟨-, hf', -⟩ | ⟨-, hf', -⟩ := step_cases h
  · exact hr
  · simp [hf] at hf'
  · simp [hf] at hf'

/-- Settles O36: the three kinds of step in turn, and a fault is a failing check, which is a broken contract. -/
theorem flagAndIvWriters : Obligations.FlagAndIvWriters := by
  intro s t h
  have takesFault := fun hf => step_faulted_iff hf h
  have clearsFault : s.faulted = true → t.faulted = false → s.resetIn = .betweenCommands :=
    fun hf _ => reset_of_step_faulted hf h
  obtain ⟨hr, rfl⟩ | same | ⟨i, c, takes, -, rfl⟩ := step_context_cases h
  · exact ⟨nofun, fun _ _ => .inl hr, nofun, fun _ _ => .inl hr, nofun, fun _ _ => .inl hr, takesFault, clearsFault,
      fun _ => .inl hr⟩
  · refine ⟨?_, ?_, ?_, ?_, ?_, ?_, takesFault, clearsFault, fun changed => absurd same.iv changed⟩ <;>
      simp +contextual [same.ctxLive, same.keyed, same.ivValid]
  · obtain ⟨sets, clears, setsKeyed, clearsKeyed, setsIv, clearsIv, iv⟩ := commandDone_writers takes (placeOperand c s)
    exact ⟨sets, fun h0 h1 => .inr (clears h0 h1), setsKeyed, fun h0 h1 => .inr (clearsKeyed h0 h1), setsIv,
      fun h0 h1 => .inr (clearsIv h0 h1), takesFault, clearsFault, fun changed => .inr (iv changed)⟩

/-- A completed command that leaves the context live, and found it so, is none of those that select path and algorithm. -/
theorem commandDone_keeps_path {i : Instr} {s : State} (hc : commandCheck i s = none) (h0 : s.ctxLive = true)
    (h1 : (commandDone i s).ctxLive = true) : (commandDone i s).impl = s.impl ∧ (commandDone i s).alg = s.alg := by
  cases i with
  | new code =>
    obtain ⟨-, dead, -⟩ := (checkNew_eq_none code s).mp hc
    simp [h0] at dead
  | free => simp [commandDone] at h1
  | setKey => exact ⟨rfl, rfl⟩
  | setIv => exact ⟨rfl, rfl⟩
  | encrypt => simp [commandDone]
  | decrypt => simp [commandDone]

/-- Settles O37: `NEW` on a live context faults, and `FREE` and reset leave none. -/
theorem pathAndAlgorithmAreFixed : Obligations.PathAndAlgorithmAreFixed := by
  intro s t h
  obtain ⟨-, rfl⟩ | same | ⟨i, c, -, hc, rfl⟩ := step_context_cases h
  · exact ⟨rfl, fun _ => nofun⟩
  · exact ⟨same.cfg, fun _ _ => ⟨same.impl, same.alg⟩⟩
  · exact ⟨commandDone_cfg i _, commandDone_keeps_path hc⟩

end Sys2Proof.Safety
end

section
/-! CTR mode: the keystream on every block and the final counter (spec/43_modes.md R134 to R136). -/

namespace Sys2Proof.Machine

open Sys2Proof.Safety

/-- A state that accepts block commands passes their checks. -/
theorem checkBlock_of_blockReady {s : State} (h : BlockReady s) : checkBlock s = none := by
  obtain ⟨-, live, keyed, ivValid, whole, bound, zero⟩ := h
  exact (checkBlock_eq_none s).mpr ⟨live, keyed, ivValid, (badSpan_eq_false _ _).mpr ⟨whole, bound, zero⟩⟩

/-- In a CTR context `DECRYPT` and `ENCRYPT` are the same function. -/
theorem exec_decrypt_of_ctr {s : State} (h : modeOf s.alg = .ctr) : exec .decrypt s = exec .encrypt s := by
  have span : decryptSpan s = encryptSpan s := by simp [decryptSpan, encryptSpan, h]
  simp only [exec_eq_guarded, commandCheck, commandDone, span]

/-- In a CTR context both block commands complete as `ENCRYPT` does. -/
theorem exec_block_done_of_ctr {i : Instr} {s : State} (hi : i = .encrypt ∨ i = .decrypt) (mode : modeOf s.alg = .ctr)
    (ready : BlockReady s) : exec i s = .next (commandDone .encrypt s) := by
  have run : exec .encrypt s = .next (commandDone .encrypt s) := exec_done ready.1 (checkBlock_of_blockReady ready)
  obtain rfl | rfl := hi
  · exact run
  · rw [exec_decrypt_of_ctr mode, run]

-- The loop

/-- What the CTR loop leaves in each block: the keystream added on the blocks it runs over, the others as they were. -/
theorem spanRead_ctrLoop (enc inc : Block → Block) (left k : Nat) {m : Memory} (hm : Memory.wf m = true) (v : Block)
    (j : Nat) : spanRead (ctrLoop enc inc left k m v).1 j =
      if k ≤ j ∧ j < k + left then spanRead m j ^^^ enc (inc^[j - k] v) else spanRead m j := by
  induction left generalizing k m v with
  | zero => rw [if_neg (by omega), ctrLoop]
  | succ left ih =>
    rw [ctrLoop, ih (k + 1) (wf_spanWrite hm k _)]
    by_cases hjk : j = k
    · subst hjk
      rw [if_neg (by omega), if_pos (by omega), spanRead_spanWrite_same hm, Nat.sub_self, Function.iterate_zero, id]
    · rw [spanRead_spanWrite_ne hm hjk]
      by_cases later : k + 1 ≤ j ∧ j < k + 1 + left
      · rw [if_pos later, if_pos (by omega), show j - k = (j - (k + 1)) + 1 by omega, Function.iterate_succ_apply]
      · rw [if_neg later, if_neg (by omega)]

theorem ctrLoop_counter (enc inc : Block → Block) (left k : Nat) (m : Memory) (v : Block) :
    (ctrLoop enc inc left k m v).2 = inc^[left] v := by
  induction left generalizing k m v with
  | zero => rfl
  | succ left ih => rw [ctrLoop, ih, Function.iterate_succ_apply]

theorem ctrInc_iterate (n : Nat) (v : Block) : ctrInc^[n] v = v + BitVec.ofNat 128 n := by
  induction n with
  | zero => simp
  | succ n ih => rw [Function.iterate_succ_apply', ih, ctrInc, BitVec.add_assoc, BitVec.ofNat_add]

-- The command

/-- Block `k` after a block command in a CTR context, on either path. -/
theorem spanRead_encryptSpan_ctr {s : State} (mode : modeOf s.alg = .ctr) (buffer : BufferInv s) (k : Nat) :
    spanRead (encryptSpan s).mem k = if k < s.len / 16
      then spanRead s.mem k ^^^ ecbEnc s.fwd s.nr.toNat (s.iv + BitVec.ofNat 128 k) else spanRead s.mem k := by
  simp only [encryptSpan, mode, ctrCrypt, writeSpan_mem, blockEnc_eq_ecbEnc, pathCtrInc_eq_ctrInc, spanBlocks]
  rw [spanRead_ctrLoop _ _ _ _ buffer.1, Nat.sub_zero, ctrInc_iterate]
  simp

theorem encryptSpan_iv_ctr {s : State} (mode : modeOf s.alg = .ctr) :
    (encryptSpan s).iv = s.iv + BitVec.ofNat 128 (s.len / 16) := by
  simp only [encryptSpan, mode, ctrCrypt, writeSpan_iv, pathCtrInc_eq_ctrInc, spanBlocks, ctrLoop_counter, ctrInc_iterate]

/-- Settles O27: both commands run the one loop, which adds the keystream block by block. -/
theorem ctrAddsKeystream : Obligations.CtrAddsKeystream := by
  intro s ready mode buffer
  refine ⟨_, exec_block_done_of_ctr (.inl rfl) mode ready, exec_block_done_of_ctr (.inr rfl) mode ready,
    fun k hk => ?_, encryptSpan_iv_ctr mode, ?_⟩
  · exact (spanRead_encryptSpan_ctr mode buffer k).trans (if_pos hk)
  · simp [commandDone, complete_answer, SameFault]

-- Its own inverse

/-- Two canonical buffers with the same blocks are equal. -/
theorem memory_ext_spanRead {m m' : Memory} (hm : Memory.wf m = true) (hm' : Memory.wf m' = true)
    (h : ∀ k, spanRead m k = spanRead m' k) : m = m' :=
  Memory.ext_wf hm hm' fun x => by
    have hx : x % 16 < 16 := Nat.mod_lt _ (by decide)
    rw [← Nat.div_add_mod x 16, ← blockByte_spanRead _ _ _ hx, ← blockByte_spanRead _ _ _ hx, h]

/-- The state between the two commands: `ENCRYPT` has completed, and the IV is set back. -/
def ivSetBack (s : State) : State := installIv s.iv (commandDone .encrypt s)

theorem modeOf_ivSetBack {s : State} (mode : modeOf s.alg = .ctr) : modeOf (ivSetBack s).alg = .ctr := by
  simpa [ivSetBack, commandDone] using mode

theorem blockReady_ivSetBack {s : State} (h : BlockReady s) : BlockReady (ivSetBack s) := by
  obtain ⟨hf, live, keyed, -, span⟩ := h
  simpa [BlockReady, ivSetBack, commandDone, hf, live, keyed] using span

theorem bufferInv_ivSetBack {s : State} (h : BufferInv s) : BufferInv (ivSetBack s) := bufferInv_encryptSpan h

/-- The second command adds the same keystream to every block, which cancels. -/
theorem encryptSpan_ivSetBack_mem {s : State} (mode : modeOf s.alg = .ctr) (buffer : BufferInv s) :
    (encryptSpan (ivSetBack s)).mem = s.mem := by
  have buffer' := bufferInv_ivSetBack buffer
  refine memory_ext_spanRead (bufferInv_encryptSpan buffer').1 buffer.1 fun k => ?_
  rw [spanRead_encryptSpan_ctr (modeOf_ivSetBack mode) buffer']
  simp only [ivSetBack, commandDone, installIv_mem, installIv_len, installIv_fwd, installIv_nr, installIv_iv, complete_mem,
    complete_len, complete_fwd, complete_nr, encryptSpan_len, encryptSpan_fwd, encryptSpan_nr,
    spanRead_encryptSpan_ctr mode buffer]
  by_cases hk : k < s.len / 16
  · rw [if_pos hk, if_pos hk, BitVec.xor_assoc, BitVec.xor_self, BitVec.xor_zero]
  · rw [if_neg hk, if_neg hk]

theorem encryptSpan_ivSetBack_iv {s : State} (mode : modeOf s.alg = .ctr) :
    (encryptSpan (ivSetBack s)).iv = (encryptSpan s).iv := by
  rw [encryptSpan_iv_ctr mode, encryptSpan_iv_ctr (modeOf_ivSetBack mode)]
  simp [ivSetBack, commandDone]

/-- Settles O59: each of the two commands is `ENCRYPT`, and the second undoes the first. -/
theorem ctrIsItsOwnInverse : Obligations.CtrIsItsOwnInverse := by
  refine ⟨fun s mode => exec_decrypt_of_ctr mode, fun i j s hi hj ready mode buffer => ?_⟩
  exact ⟨_, _, exec_block_done_of_ctr hi mode ready,
    exec_block_done_of_ctr hj (modeOf_ivSetBack mode) (blockReady_ivSetBack ready),
    encryptSpan_ivSetBack_mem mode buffer, encryptSpan_ivSetBack_iv mode⟩

end Sys2Proof.Machine
end

section
/-! What a command does not depend on: cells not yet written, secrets in its STATUS word, scratch state, and the path
(spec/10_state.md R28, R30 to R32, spec/44_hardware_path.md R147). -/

namespace Sys2Proof.Machine

open Sys2Proof.Safety

/-- Two runs of a command in step: where neither the fault bit nor the checks tell two states apart, what holds between the
states in each of the three cases holds between the results. -/
theorem exec_rel (R : State → State → Prop) (s' : State) {i : Instr} {s t : State} (h : exec i s = .next t)
    (hf : s'.faulted = s.faulted) (hc : commandCheck i s' = commandCheck i s)
    (ignored : R (ignoreCommand s') (ignoreCommand s)) (raised : ∀ c, R (raiseFault c s') (raiseFault c s))
    (done : commandCheck i s = none → R (commandDone i s') (commandDone i s)) :
    ∃ u, exec i s' = .next u ∧ R u t := by
  obtain ⟨faulted, rfl⟩ | ⟨ok, c, fails, rfl⟩ | ⟨ok, pass, rfl⟩ := exec_cases h
  · exact ⟨_, (exec_eq_guarded i s').trans (guarded_faulted (hf.trans faulted)), ignored⟩
  · exact ⟨_, exec_raise (hf.trans ok) (hc.trans fails), raised c⟩
  · exact ⟨_, exec_done (hf.trans ok) (hc.trans pass), done pass⟩

-- The checks read no secret cell, no scratch state, no buffer byte and no path

theorem commandCheck_withSecrets (i : Instr) (f g : Schedule) (v : Block) (s : State) :
    commandCheck i (withSecrets f g v s) = commandCheck i s := by cases i <;> rfl

theorem commandCheck_of_scratch_mem (i : Instr) (x : Scratch) (m : Memory) (s : State) :
    commandCheck i { s with scratch := x, mem := m } = commandCheck i s := by cases i <;> rfl

theorem commandCheck_withImpl (i : Instr) (p : Impl) (s : State) :
    commandCheck i (withImpl p s) = commandCheck i s := by cases i <;> rfl

-- Unwritten cells

theorem keyed_and_ivValid_of_commandCheck {i : Instr} {s : State} (hi : i = .encrypt ∨ i = .decrypt)
    (hc : commandCheck i s = none) : s.keyed = true ∧ s.ivValid = true := by
  have hc : checkBlock s = none := by obtain rfl | rfl := hi <;> exact hc
  obtain ⟨-, keyed, ivValid, -⟩ := (checkBlock_eq_none s).mp hc
  exact ⟨keyed, ivValid⟩

/-- Settles O39: without a key or an IV a block command never completes, and a fault reads and writes no cell. -/
theorem unwrittenCellsAreUnread : Obligations.UnwrittenCellsAreUnread := by
  intro i s t f g v hi he
  constructor
  · intro unkeyed
    obtain ⟨u, hu, rfl⟩ := exec_rel (fun u t => u = withSecrets f g v t) (withSecrets f g v s) he rfl
      (commandCheck_withSecrets i f g v s) rfl (fun _ => rfl)
      (fun pass => absurd (keyed_and_ivValid_of_commandCheck hi pass).1 (by simp [unkeyed]))
    exact hu
  · intro noIv
    obtain ⟨u, hu, rfl⟩ := exec_rel (fun u t => u = withSecrets t.fwd t.inv v t) (withSecrets s.fwd s.inv v s) he rfl
      (commandCheck_withSecrets i s.fwd s.inv v s) rfl (fun _ => rfl)
      (fun pass => absurd (keyed_and_ivValid_of_commandCheck hi pass).2 (by simp [noIv]))
    exact hu

-- Answers

/-- STATUS shows no secret cell, no scratch state and no buffer byte, so neither does the answer of a completed command. -/
theorem commandDone_answer_hides (i : Instr) (f g : Schedule) (v : Block) (x : Scratch) (m : Memory) (s : State) :
    (commandDone i (withSecrets f g v { s with scratch := x, mem := m })).answer = (commandDone i s).answer := by
  cases i <;> simp [commandDone, complete_answer, statusWord, withSecrets]

/-- Only the block commands answer with bytes (R66). -/
theorem answerBytes_of_not_block {i : Instr} {s t : State} (h : exec i s = .next t) (he : i ≠ .encrypt)
    (hd : i ≠ .decrypt) : answerBytes t = [] := by
  obtain ⟨-, rfl⟩ | ⟨-, c, -, rfl⟩ | ⟨-, -, rfl⟩ := exec_cases h
  · rfl
  · rfl
  · cases i with
    | encrypt => exact absurd rfl he
    | decrypt => exact absurd rfl hd
    | _ => rfl

/-- A completed command replaces the scratch state it found, and reads none of it. -/
theorem commandDone_of_scratch (i : Instr) (x : Scratch) (s : State) :
    commandDone i { s with scratch := x } = commandDone i s := by
  cases i with
  | encrypt => simp only [commandDone, encryptSpan_of_scratch]; rfl
  | decrypt => simp only [commandDone, decryptSpan_of_scratch]; rfl
  | _ => rfl

/-- Settles O40: the checks and STATUS read none of the cells, and a completed command draws its scratch state anew. -/
theorem answersHideSecrets : Obligations.AnswersHideSecrets := by
  constructor
  · intro i s f g v x m t u ht hu
    have check := (commandCheck_withSecrets i f g v _).trans (commandCheck_of_scratch_mem i x m s)
    obtain ⟨u', hu', answer⟩ := exec_rel (fun u t => u.answer = t.answer)
      (withSecrets f g v { s with scratch := x, mem := m }) ht rfl check rfl (fun _ => rfl)
      (fun _ => commandDone_answer_hides i f g v x m s)
    cases hu'.symm.trans hu
    exact ⟨answer, fun he hd => ⟨answerBytes_of_not_block hu he hd, answerBytes_of_not_block ht he hd⟩⟩
  · intro i s x t u ht hu
    obtain ⟨u', hu', bytes⟩ := exec_rel (fun u t => answerBytes u = answerBytes t) { s with scratch := x } ht rfl
      (commandCheck_of_scratch_mem i x s.mem s) rfl (fun _ => rfl)
      (fun _ => congrArg answerBytes (commandDone_of_scratch i x s))
    cases hu'.symm.trans hu
    exact bytes

-- The two paths

/-- The states a command leaves on the two paths agree on all but the path and the answer, and answer with the same span. -/
structure AgreeButPath (u t : State) : Prop where
  state : { u with impl := t.impl, answer := t.answer } = t
  withSpan : u.answer.map Answer.withSpan = t.answer.map Answer.withSpan

theorem AgreeButPath.bufferBytes_eq {u t : State} (h : AgreeButPath u t) : bufferBytes u = bufferBytes t :=
  (congrArg bufferBytes h.state :)

theorem AgreeButPath.answerBytes_eq {u t : State} (h : AgreeButPath u t) : answerBytes u = answerBytes t := by
  have flag := h.withSpan
  simp only [answerBytes, h.bufferBytes_eq]
  cases hu : u.answer <;> cases ht : t.answer <;> simp_all

/-- Setting bit 3 of STATUS is setting the hardware path (R26). -/
theorem statusWord_or_pathBit (s : State) : statusWord s ||| 8#32 = statusWord (withImpl .hardware s) := by
  apply BitVec.eq_of_getLsbD_eq
  intro k hk
  simp only [statusWord, withImpl, implBit, BitVec.getLsbD_or, BitVec.getLsbD_append]
  interval_cases k <;> simp

theorem AgreeButPath.status {u t : State} (h : AgreeButPath u t) : statusWord u ||| 8#32 = statusWord t ||| 8#32 := by
  rw [statusWord_or_pathBit, statusWord_or_pathBit]
  exact (congrArg (fun s => statusWord (withImpl .hardware s)) h.state :)

theorem encryptSpan_withImpl (p : Impl) (s : State) : encryptSpan (withImpl p s) = withImpl p (encryptSpan s) := by
  have mode : modeOf (withImpl p s).alg = modeOf s.alg := rfl
  rw [encryptSpan, encryptSpan, mode]
  cases modeOf s.alg <;> simp only [cbcEnc, ctrCrypt, blockEnc_eq_ecbEnc, pathCtrInc_eq_ctrInc] <;> rfl

theorem decryptSpan_withImpl (p : Impl) (s : State) : decryptSpan (withImpl p s) = withImpl p (decryptSpan s) := by
  have mode : modeOf (withImpl p s).alg = modeOf s.alg := rfl
  rw [decryptSpan, decryptSpan, mode]
  cases modeOf s.alg <;>
    simp only [cbcDec, ctrCrypt, blockDec_eq_ecbDec, blockEnc_eq_ecbEnc, pathCtrInc_eq_ctrInc] <;> rfl

theorem installKey_withImpl (key : List Byte) (nk : Nat) (p : Impl) (s : State) :
    installKey key nk (withImpl p s) = withImpl p (installKey key nk s) := by
  simp only [installKey, pathInvExpand_eq_invExpand]
  rfl

/-- A completed command does the same on the two paths: `NEW` and `FREE` select the path themselves, and the other commands
call functions that agree. -/
theorem commandDone_agree (i : Instr) (s : State) :
    AgreeButPath (commandDone i (withImpl .hardware s)) (commandDone i (withImpl .portable s)) := by
  cases i with
  | setKey => simp only [commandDone, installKey_withImpl]; exact ⟨rfl, rfl⟩
  | encrypt => simp only [commandDone, encryptSpan_withImpl]; exact ⟨rfl, rfl⟩
  | decrypt => simp only [commandDone, decryptSpan_withImpl]; exact ⟨rfl, rfl⟩
  | _ => exact ⟨rfl, rfl⟩

/-- Settles O54: the checks do not read the path, and what a command leaves agrees on both. -/
theorem pathsAreByteIdentical : Obligations.PathsAreByteIdentical := by
  intro i s t h
  have check := (commandCheck_withImpl i .hardware s).trans (commandCheck_withImpl i .portable s).symm
  obtain ⟨u, hu, agree⟩ := exec_rel AgreeButPath (withImpl .hardware s) h rfl check ⟨rfl, rfl⟩
    (fun _ => ⟨rfl, rfl⟩) (fun _ => commandDone_agree i s)
  exact ⟨u, hu, agree.state, agree.answerBytes_eq, agree.status⟩

end Sys2Proof.Machine
end

section
/-! The operand in the buffer, when a step stops, and what the commands on the buffer leave unchanged
(spec/20_memory.md R38, R39, R46, R53, spec/45_commands.md R162 to R165, R168, spec/70_reset_and_hazards.md R200). -/

namespace Sys2Proof.Machine

open Sys2Proof.Safety

/-- Settles O7: the placed bytes read back, and placing them in an empty buffer gives the canonical form. -/
theorem operandIsPlaced : Obligations.OperandIsPlaced := fun s c =>
  ⟨bufferBytes_placeOperand c s, rfl, Memory.wf_ofBytes c.operand, Memory.below_ofBytes c.operand⟩

-- When a step stops

theorem takeCommand_eq_refused {c : Command} (s : State) (ha : c.agent = .other) :
    takeCommand c s = .refused .secondAgent := by
  simp [takeCommand, ha]

/-- No command of the host's stops the machine, legal or not. -/
theorem takeCommand_is_next {c : Command} (s : State) (ha : c.agent = .host) : ∃ t, takeCommand c s = .next t := by
  cases hd : decode c.word with
  | illegalCommand => exact ⟨_, takeCommand_illegal s ha hd⟩
  | command i => rw [takeCommand_eq_exec s ha hd]; exact exec_is_next i _

theorem step_eq_resetRefused {s : State} (hr : s.resetIn = .duringCommand) :
    step s = .refused .resetDuringCommand := by
  simp [step, hr]

theorem step_eq_noFurtherStep {s : State} (hr : s.resetIn = .released) (hf : s.faulted = true) :
    step s = .fault (.coreFaulted s.faultCause) := by
  simp [step, hr, hf, noFurtherStep]

theorem step_eq_wait {s : State} (hr : s.resetIn = .released) (hf : s.faulted = false) (hn : nextCommand s = none) :
    step s = .next s := by
  simp [step, hr, hf, hn, waitForCommand]

/-- The outcome of a step, told from the state before it: the two refusals, the fault, and a next state otherwise. -/
theorem step_outcome (s : State) :
    (s.resetIn = .duringCommand ∧ step s = .refused .resetDuringCommand) ∨
    (s.resetIn = .released ∧ s.faulted = true ∧ step s = .fault (.coreFaulted s.faultCause)) ∨
    (s.resetIn = .released ∧ s.faulted = false ∧ (∃ c, nextCommand s = some c ∧ c.agent = .other) ∧
      step s = .refused .secondAgent) ∨
    ((s.resetIn = .betweenCommands ∨
      s.resetIn = .released ∧ s.faulted = false ∧ ∀ c, nextCommand s = some c → c.agent = .host) ∧
      ∃ t, step s = .next t) := by
  cases hr : s.resetIn with
  | duringCommand => exact .inl ⟨rfl, step_eq_resetRefused hr⟩
  | betweenCommands => exact .inr (.inr (.inr ⟨.inl rfl, _, step_eq_hardwareReset hr⟩))
  | released =>
    cases hf : s.faulted with
    | true => exact .inr (.inl ⟨rfl, rfl, step_eq_noFurtherStep hr hf⟩)
    | false =>
      cases hn : nextCommand s with
      | none => exact .inr (.inr (.inr ⟨.inr ⟨rfl, rfl, nofun⟩, s, step_eq_wait hr hf hn⟩))
      | some c =>
        rw [step_eq_takeCommand hr hf hn]
        cases ha : c.agent with
        | other => exact .inr (.inr (.inl ⟨rfl, rfl, ⟨c, rfl, ha⟩, takeCommand_eq_refused s ha⟩))
        | host =>
          exact .inr (.inr (.inr ⟨.inr ⟨rfl, rfl, fun _ e => Option.some.inj e ▸ ha⟩, takeCommand_is_next s ha⟩))

/-- Settles O9: the four outcomes of a step exclude each other by the reset input, the fault bit and the agent. -/
theorem stepStopsExactly : Obligations.StepStopsExactly := by
  refine ⟨fun s f => ?_, fun s r => ?_⟩
  · obtain ⟨hr, e⟩ | ⟨hr, hf, e⟩ | ⟨hr, hf, -, e⟩ | ⟨hr | ⟨hr, hf, -⟩, t, e⟩ := step_outcome s
    · simp [e, hr]
    · simp [e, hr, hf, eq_comm (b := f)]
    · simp [e, hf]
    · simp [e, hr]
    · simp [e, hf]
  · obtain ⟨hr, e⟩ | ⟨hr, hf, e⟩ | ⟨hr, hf, agent, e⟩ | ⟨hr | ⟨hr, -, host⟩, t, e⟩ := step_outcome s
    · simp [e, hr, eq_comm (b := r)]
    · simp [e, hr, hf]
    · simp [e, hr, hf, agent, eq_comm (b := r)]
    · simp [e, hr]
    · have noOther : ¬ ∃ c, nextCommand s = some c ∧ c.agent = .other :=
        fun ⟨c, hn, ha⟩ => by simp [host c hn] at ha
      simp [e, hr, noOther]

-- SET_KEY and SET_IV

/-- Settles O34: a command that takes a fault or is ignored leaves every field named, and `SET_KEY` and `SET_IV` read the
buffer and write their own cells only. -/
theorem frameSetKeySetIv : Obligations.FrameSetKeySetIv := by
  intro i s t hi he
  obtain ⟨-, rfl⟩ | ⟨-, c, -, rfl⟩ | ⟨-, -, rfl⟩ := exec_cases he
  · simp [SameHost, SameBuffer, SameFault]
  · simp [SameHost, SameBuffer]
  · obtain rfl | rfl := hi <;> simp [commandDone, SameHost, SameBuffer, SameFault]

-- Where the block commands store

/-- `m'` is `m` after one block write to each of the `left` blocks from block `k` on, in order: all that a mode machine does
to the span. -/
inductive BlockWrites : (left k : Nat) → (m m' : Memory) → Prop where
  | nil (k : Nat) (m : Memory) : BlockWrites 0 k m m
  | cons {left k : Nat} {m m' : Memory} (v : Block) (rest : BlockWrites left (k + 1) (spanWrite m k v) m') :
    BlockWrites (left + 1) k m m'

theorem cbcEncLoop_blockWrites (enc : Block → Block) (left k : Nat) (m : Memory) (v : Block) :
    BlockWrites left k m (cbcEncLoop enc left k m v).1 := by
  induction left generalizing k m v with
  | zero => exact .nil k m
  | succ left ih => exact .cons _ (ih ..)

theorem cbcDecLoop_blockWrites (dec : Block → Block) (left k : Nat) (m : Memory) (v : Block) :
    BlockWrites left k m (cbcDecLoop dec left k m v).1 := by
  induction left generalizing k m v with
  | zero => exact .nil k m
  | succ left ih => exact .cons _ (ih ..)

theorem ctrLoop_blockWrites (enc inc : Block → Block) (left k : Nat) (m : Memory) (v : Block) :
    BlockWrites left k m (ctrLoop enc inc left k m v).1 := by
  induction left generalizing k m v with
  | zero => exact .nil k m
  | succ left ih => exact .cons _ (ih ..)

theorem encryptSpan_blockWrites (s : State) : BlockWrites (spanBlocks s) 0 s.mem (encryptSpan s).mem := by
  rw [encryptSpan]
  cases modeOf s.alg with
  | cbc => exact cbcEncLoop_blockWrites ..
  | ctr => exact ctrLoop_blockWrites ..

theorem decryptSpan_blockWrites (s : State) : BlockWrites (spanBlocks s) 0 s.mem (decryptSpan s).mem := by
  rw [decryptSpan]
  cases modeOf s.alg with
  | cbc => exact cbcDecLoop_blockWrites ..
  | ctr => exact ctrLoop_blockWrites ..

/-- A byte string written elsewhere leaves a byte as it was, whatever form the buffer has. -/
theorem Memory.read_writeBytes_outside (m : Memory) (a : Nat) (bs : List Byte) {x : Nat}
    (hx : ¬ (a ≤ x ∧ x < a + bs.length)) : Memory.read (Memory.writeBytes m a bs) x = Memory.read m x := by
  induction bs generalizing m a with
  | nil => rfl
  | cons b bs ih =>
    rw [List.length_cons] at hx
    rw [Memory.writeBytes, ih _ _ (by omega), Memory.read_write_ne b (by omega)]

theorem read_spanWrite_outside (m : Memory) (k : Nat) (v : Block) {x : Nat} (hx : ¬ (16 * k ≤ x ∧ x < 16 * k + 16)) :
    Memory.read (spanWrite m k v) x = Memory.read m x :=
  Memory.read_writeBytes_outside m _ _ (by rwa [bytesOfBlock_length])

/-- Block writes leave every byte outside their blocks as it was. -/
theorem BlockWrites.read_outside {left k : Nat} {m m' : Memory} (h : BlockWrites left k m m') {x : Nat}
    (hx : ∀ j, k ≤ j → j < k + left → ¬ (16 * j ≤ x ∧ x < 16 * j + 16)) : Memory.read m' x = Memory.read m x := by
  induction h with
  | nil => rfl
  | @cons left k m m' v _ ih =>
    rw [ih fun j h0 h1 => hx j (by omega) (by omega), read_spanWrite_outside m k v (hx k le_rfl (by omega))]

/-- A completed block command makes one block write to each block of the span. -/
theorem commandDone_blockWrites {i : Instr} (hi : i = .encrypt ∨ i = .decrypt) (s : State) :
    BlockWrites (spanBlocks s) 0 s.mem (commandDone i s).mem := by
  obtain rfl | rfl := hi
  · exact encryptSpan_blockWrites s
  · exact decryptSpan_blockWrites s

/-- Settles O35: a command that takes a fault or is ignored leaves the buffer, and one that completes stores to the blocks
of the span only. -/
theorem frameEncryptDecrypt : Obligations.FrameEncryptDecrypt := by
  intro i s t hi he
  obtain ⟨-, rfl⟩ | ⟨-, c, -, rfl⟩ | ⟨-, -, rfl⟩ := exec_cases he
  · simp [SameHost, SameFault]
  · simp [SameHost]
  · have bytes : ∀ a, (∀ k, k < spanBlocks s → ¬ (16 * k ≤ a ∧ a < 16 * k + 16)) →
        Memory.read (commandDone i s).mem a = Memory.read s.mem a :=
      fun a ha => (commandDone_blockWrites hi s).read_outside fun j _ hj => ha j (by omega)
    obtain rfl | rfl := hi
    · simpa [commandDone, SameHost, SameFault] using bytes
    · simpa [commandDone, SameHost, SameFault] using bytes

-- The zero-length span

theorem encryptSpan_of_len_zero {s : State} (h : s.len = 0) : encryptSpan s = s := by
  have blocks : spanBlocks s = 0 := by rw [spanBlocks, h]
  rw [encryptSpan]
  cases modeOf s.alg with
  | cbc => simp only [cbcEnc, blocks]; rfl
  | ctr => simp only [ctrCrypt, blocks]; rfl

theorem decryptSpan_of_len_zero {s : State} (h : s.len = 0) : decryptSpan s = s := by
  have blocks : spanBlocks s = 0 := by rw [spanBlocks, h]
  rw [decryptSpan]
  cases modeOf s.alg with
  | cbc => simp only [cbcDec, blocks]; rfl
  | ctr => simp only [ctrCrypt, blocks]; rfl

theorem commandCheck_block {i : Instr} (hi : i = .encrypt ∨ i = .decrypt) (s : State) :
    commandCheck i s = checkBlock s := by
  obtain rfl | rfl := hi
  · rfl
  · rfl

/-- On a zero-length span both block commands complete with nothing written. -/
theorem commandDone_block_of_len_zero {i : Instr} (hi : i = .encrypt ∨ i = .decrypt) {s : State} (h : s.len = 0) :
    commandDone i s = complete (freeScratch s.freeCtr) true s := by
  obtain rfl | rfl := hi
  · rw [commandDone, encryptSpan_of_len_zero h]
  · rw [commandDone, decryptSpan_of_len_zero h]

/-- In a context ready but for its span, the length alone decides the checks of the block commands (R160). -/
theorem checkBlock_of_badSpan {s : State} (live : s.ctxLive = true) (keyed : s.keyed = true) (ivValid : s.ivValid = true)
    (bad : badSpan s.cfg s.len = true) : checkBlock s = some .badSpanLength := by
  simp [checkBlock, live, keyed, ivValid, bad]

/-- Settles O29: the policy alone decides whether the length 0 passes the checks, and no block is run over it. -/
theorem zeroLengthFollowsPolicy : Obligations.ZeroLengthFollowsPolicy := by
  intro i s hi hf live keyed ivValid hlen
  have check := commandCheck_block hi s
  cases policy : s.cfg.zeroLen with
  | noop =>
    have ready : BlockReady s := ⟨hf, live, keyed, ivValid, by simp [hlen], by simp [hlen], fun _ => policy⟩
    refine ⟨_, exec_done hf (check.trans (checkBlock_of_blockReady ready)), ?_⟩
    simp [commandDone_block_of_len_zero hi hlen, hf]
  | reject =>
    have bad : badSpan s.cfg s.len = true := (badSpan_eq_true _ _).mpr (.inr (.inr ⟨hlen, policy⟩))
    refine ⟨_, exec_raise hf (check.trans (checkBlock_of_badSpan live keyed ivValid bad)), ?_⟩
    simp

end Sys2Proof.Machine
end

section
/-! The command word: its fields as numbers, the agreement of the decoder with the encoder, the assembler's words, and the
answer to a decoded command (spec/30_encoding.md R61 to R71, spec/45_commands.md R160, R167). -/

namespace Sys2Proof.Machine

open Sys2Proof.Safety

-- The fields of a word as numbers

theorem opField_toNat (w : Word) : (opField w).toNat = w.toNat % 16 := by simp [opField]

theorem algField_toNat (w : Word) : (algField w).toNat = w.toNat / 16 % 8 := by
  simp [algField, Nat.shiftRight_eq_div_pow]

theorem rsvField_toNat (w : Word) : (rsvField w).toNat = w.toNat / 128 := by
  have lt := w.isLt
  simp only [rsvField, BitVec.extractLsb'_toNat, Nat.shiftRight_eq_div_pow]
  omega

theorem commandWord_toNat (alg : BitVec 3) (op : BitVec 4) : (commandWord alg op).toNat = 16 * alg.toNat + op.toNat := by
  revert alg op
  decide

/-- A word with no reserved bit set is the command word of its own two fields (R61). -/
theorem commandWord_fields {w : Word} (h : rsvField w = 0#25) : commandWord (algField w) (opField w) = w := by
  have rsv : w.toNat / 128 = 0 := by rw [← rsvField_toNat, h]; rfl
  apply BitVec.eq_of_toNat_eq
  rw [commandWord_toNat, algField_toNat, opField_toNat]
  omega

-- Decode and encode

theorem plainCommand_eq_command {alg : BitVec 3} {i j : Instr} (h : plainCommand alg i = .command j) :
    alg = 0#3 ∧ i = j := by
  unfold plainCommand at h
  split at h
  · next ha => exact ⟨ha, Decoded.command.inj h⟩
  · cases h

/-- What a legal word holds: no reserved bit, and the two fields of its command's encoding (R62, R64, R67). -/
theorem fields_of_decode {w : Word} {i : Instr} (h : decode w = .command i) :
    rsvField w = 0#25 ∧ encode i = commandWord (algField w) (opField w) := by
  have plain {j : Instr} {op : BitVec 4} (code : encode j = commandWord 0#3 op) (ho : opField w = op)
      (hp : plainCommand (algField w) j = .command i) : encode i = commandWord (algField w) (opField w) := by
    obtain ⟨ha, rfl⟩ := plainCommand_eq_command hp
    rw [code, ha, ho]
  unfold decode at h
  split at h
  · cases h
  · next hr =>
    refine ⟨not_not.mp hr, ?_⟩
    split at h
    · next ho =>
      split at h
      · cases h
      · obtain rfl := Decoded.command.inj h
        rw [ho]; rfl
    · next ho => exact plain rfl ho h
    · next ho => exact plain rfl ho h
    · next ho => exact plain rfl ho h
    · next ho => exact plain rfl ho h
    · next ho => exact plain rfl ho h
    · cases h

/-- Decoding undoes encoding, command by command (R61, R67). -/
theorem decode_encode {i : Instr} (h : WellFormed i = true) : decode (encode i) = .command i := by
  cases i with
  | new alg => exact Laws.RoundTrip.new alg h
  | setKey => exact Laws.RoundTrip.setKey h
  | setIv => exact Laws.RoundTrip.setIv h
  | encrypt => exact Laws.RoundTrip.encrypt h
  | decrypt => exact Laws.RoundTrip.decrypt h
  | free => exact Laws.RoundTrip.free h

/-- Settles O1: a legal word is the command word of its fields, and those are the ones its command is encoded with. -/
theorem decodeIffEncode : Obligations.DecodeIffEncode := by
  intro w i
  constructor
  · intro h
    obtain ⟨rsv, fields⟩ := fields_of_decode h
    exact ⟨wellFormed_of_decode h, fields.trans (commandWord_fields rsv)⟩
  · rintro ⟨wf, rfl⟩
    exact decode_encode wf

-- The pseudocode and the legal words

theorem decode_of_toNat {w : Word} {i : Instr} (wf : WellFormed i = true) (h : (encode i).toNat = w.toNat) :
    decode w = .command i :=
  (decodeIffEncode w i).mpr ⟨wf, BitVec.eq_of_toNat_eq h⟩

/-- `decode_illegal_of_reserved` on the numbers of the fields. -/
theorem decode_illegal_of_toNat {w : Word} (h : w.toNat / 128 ≠ 0 ∨ (w.toNat / 16 % 8 ≠ 0 ∧ w.toNat % 16 ≠ 1) ∨
    (w.toNat % 16 = 1 ∧ w.toNat / 16 % 8 = 7) ∨ w.toNat % 16 = 0 ∨ 7 ≤ w.toNat % 16) :
    decode w = .illegalCommand := by
  apply decode_illegal_of_reserved
  simp only [ne_eq, ← BitVec.toNat_inj, rsvField_toNat, algField_toNat, opField_toNat]
  exact h

theorem decode_new_of_toNat {w : Word} (rsv : w.toNat / 128 = 0) (op : w.toNat % 16 = 1) (alg : w.toNat / 16 ≠ 7) :
    decode w = .command (.new (BitVec.ofNat 3 (w.toNat / 16))) := by
  have code : (BitVec.ofNat 3 (w.toNat / 16)).toNat = w.toNat / 16 := by rw [BitVec.toNat_ofNat]; omega
  apply decode_of_toNat
  · rw [WellFormed, code, decide_eq_true_eq]; omega
  · rw [encode, commandWord_toNat, code, BitVec.toNat_ofNat]; omega

/-- The commands the spec has: `NEW` with each code of R63, and the five of R62 without a code. -/
def wellFormedCommands : List Instr :=
  [.new 0#3, .new 1#3, .new 2#3, .new 3#3, .new 4#3, .new 5#3, .new 6#3, .setKey, .setIv, .encrypt, .decrypt, .free]

theorem mem_wellFormedCommands (i : Instr) : i ∈ wellFormedCommands ↔ WellFormed i = true := by
  cases i with
  | new alg => revert alg; decide
  | setKey | setIv | encrypt | decrypt | free => decide

/-- The legal words are the encodings of the commands the spec has. -/
theorem exists_decode_iff (w : Word) : (∃ i, decode w = .command i) ↔ w ∈ wellFormedCommands.map encode := by
  simp only [decodeIffEncode w, List.mem_map, mem_wellFormedCommands]

/-- Settles O2: a legal clause gives the number of its command's encoding, and every other one a reserved field. -/
theorem decoderFollowsPseudocode : Obligations.DecoderFollowsPseudocode := by
  refine ⟨fun w rsv => decode_illegal_of_toNat (.inl rsv), fun w rsv => ?_, exists_decode_iff⟩
  have plain {i : Instr} {op : Nat} (wf : WellFormed i = true) (code : (encode i).toNat = op)
      (ho : w.toNat % 16 = op) (ha : w.toNat / 16 = 0) : decode w = .command i :=
    decode_of_toNat wf (by omega)
  refine ⟨fun ho ha => decode_illegal_of_toNat ?_, decode_new_of_toNat rsv,
    fun lo hi ha => decode_illegal_of_toNat ?_, plain rfl rfl, plain rfl rfl, plain rfl rfl, plain rfl rfl, plain rfl rfl,
    fun ho => decode_illegal_of_toNat (.inr (.inr (.inr ho)))⟩
  · exact .inr (.inr (.inl ⟨ho, by omega⟩))
  · exact .inr (.inl ⟨by omega, by omega⟩)

/-- Settles O4: the legal samples are encodings, and the others have a reserved `OP`, an `ALG` outside `NEW` or a bit of
`RSV` set. -/
theorem sampleWordsDecode : Obligations.SampleWordsDecode :=
  ⟨decode_encode (i := .new 6#3) rfl, decode_encode (i := .setKey) rfl, decode_encode (i := .setIv) rfl,
    decode_encode (i := .encrypt) rfl, decode_encode (i := .decrypt) rfl, decode_encode (i := .free) rfl,
    decode_illegal_of_toNat (by decide), decode_illegal_of_toNat (by decide), decode_illegal_of_toNat (by decide),
    decode_illegal_of_toNat (by decide)⟩

-- The assembler

theorem wellFormed_new_algCode (a : Alg) : WellFormed (.new (algCode a)) = true := by cases a <;> rfl

theorem algOfCode_algCode (a : Alg) : algOfCode (algCode a) = some a := by cases a <;> rfl

/-- The host's command for a well-formed instruction decodes to it, with the operand beside it (R60, R71). -/
theorem decode_hostCommand {i : Instr} (wf : WellFormed i = true) (bs : List Byte) :
    ∃ c, [hostCommand i bs] = [c] ∧ decode c.word = .command i ∧ c.operand = bs :=
  ⟨hostCommand i bs, rfl, decode_encode wf, rfl⟩

/-- A text of one line that is read as `l` gives the commands of `l` (R71). -/
theorem assembleText_singleton {line : String} {l : AsmLine} (h : parseLine line.toList = some (some l)) :
    assembleText [line] = some (assembleLine l) := by
  simp [assembleText, h]

/-- Settles O5: each line is the host's command for a well-formed instruction, and the text of `NEW` is read with each name. -/
theorem assembledLinesDecode : Obligations.AssembledLinesDecode := by
  refine ⟨fun a => ?_, fun bs => ?_, decode_hostCommand rfl [], ?_⟩
  · exact ⟨hostCommand (.new (algCode a)) [], rfl, decode_encode (wellFormed_new_algCode a), algOfCode_algCode a, rfl⟩
  · exact ⟨decode_hostCommand rfl bs, decode_hostCommand rfl bs, decode_hostCommand rfl bs, decode_hostCommand rfl bs, rfl⟩
  · exact ⟨assembleText_singleton (l := .new .aes128Cbc) (by decide),
      assembleText_singleton (l := .new .aes192Cbc) (by decide), assembleText_singleton (l := .new .aes256Cbc) (by decide),
      assembleText_singleton (l := .new .rijndaelCbc) (by decide), assembleText_singleton (l := .new .aes128Ctr) (by decide),
      assembleText_singleton (l := .new .aes192Ctr) (by decide), assembleText_singleton (l := .new .aes256Ctr) (by decide)⟩

-- The answer

/-- A completed command answers STATUS, with the span for the block commands (R66, R167). -/
@[simp] theorem commandDone_answer (i : Instr) (s : State) :
    (commandDone i s).answer = some ⟨statusWord (commandDone i s), decide (i = .encrypt ∨ i = .decrypt)⟩ := by
  cases i <;> rfl

/-- Settles O11: a command is ignored, takes a fault or completes, and only one that completes can answer with the span. -/
theorem everyCommandAnswers : Obligations.EveryCommandAnswers := by
  intro i s
  obtain ⟨t, he⟩ := exec_is_next i s
  obtain ⟨hf, rfl⟩ | ⟨-, c, -, rfl⟩ | ⟨hf, -, rfl⟩ := exec_cases he
  · exact ⟨_, false, he, rfl, by simp [hf]⟩
  · exact ⟨_, false, he, raiseFault_answer s c, by simp⟩
  · exact ⟨_, _, he, commandDone_answer i s, by simp [hf]⟩

end Sys2Proof.Machine
end

section
/-! The product of GF(2^8), MixColumn and its inverse, the S-boxes and the T-tables (spec/40_tables.md R80 to R92). Products
and columns are linear over exclusive or, so their identities are checked on the one-bit vectors alone. -/

namespace Sys2Proof.Machine

-- Vectors under exclusive or

/-- The one-bit vectors are a basis: what holds of zero and of each of them and survives exclusive or holds everywhere. -/
theorem bitVec_xor_induction {n : Nat} {p : BitVec n → Prop} (zero : p 0#n) (bit : ∀ i < n, p (BitVec.twoPow n i))
    (xor : ∀ x y, p x → p y → p (x ^^^ y)) (x : BitVec n) : p x := by
  suffices below : ∀ k ≤ n, ∀ y : BitVec n, (∀ i, k ≤ i → y.getLsbD i = false) → p y from
    below n le_rfl x fun i hi => BitVec.getLsbD_of_ge x i hi
  intro k
  induction k with
  | zero =>
    intro _ y hy
    rwa [show y = 0#n from BitVec.eq_of_getLsbD_eq fun i _ => by simp [hy i]]
  | succ k ih =>
    intro hk y hy
    cases hb : y.getLsbD k with
    | false => exact ih (by omega) y fun i hi => (eq_or_lt_of_le hi).elim (· ▸ hb) (hy i)
    | true =>
      have cleared : p (y ^^^ BitVec.twoPow n k) := ih (by omega) _ fun i hi => by
        obtain rfl | hlt := eq_or_lt_of_le hi
        · simp [hb, show k < n by omega]
        · simp [hy i hlt, show k ≠ i by omega]
      simpa [BitVec.xor_assoc] using xor _ _ cleared (bit k (by omega))

-- GF(2^8)

/-- The top bit of a byte, which `xtime` reduces by, as a bound on the number. -/
theorem getLsbD_seven (x : Byte) : x.getLsbD 7 = decide (128 ≤ x.toNat) := x.msb_eq_decide

theorem xtime_toNat (x : Byte) : (xtime x).toNat = ((2 * x.toNat) ^^^ (if 128 ≤ x.toNat then 0x1B else 0)) % 256 := by
  rw [show 256 = 2 ^ 8 from rfl, Nat.xor_mod_two_pow]
  simp only [xtime, getLsbD_seven, BitVec.toNat_xor, BitVec.toNat_shiftLeft, Nat.shiftLeft_eq, decide_eq_true_eq]
  split <;> simp [Nat.mul_comm]

/-- Settles O41: the shift drops the bit that leaves the byte, which is the rule's mask. -/
theorem xtimeIsMasked : Obligations.XtimeIsMasked :=
  ⟨xtime_toNat, by decide, by decide, by decide⟩

theorem xtime_xor (a b : Byte) : xtime (a ^^^ b) = xtime a ^^^ xtime b := by
  have reduction : ∀ p q : Bool, (if (p ^^ q) then 0x1B#8 else 0#8) =
      (if p then 0x1B#8 else 0#8) ^^^ (if q then 0x1B#8 else 0#8) := by decide
  simp only [xtime, BitVec.shiftLeft_xor_distrib, BitVec.getLsbD_xor, reduction]
  ac_rfl

theorem xtimePow_xor (i : Nat) (a b : Byte) : xtimePow i (a ^^^ b) = xtimePow i a ^^^ xtimePow i b := by
  induction i with
  | zero => rfl
  | succ i ih => simp only [xtimePow, ih, xtime_xor]

theorem xor_gmulTerm (a b c : Byte) (i : Nat) : gmulTerm (a ^^^ b) c i = gmulTerm a c i ^^^ gmulTerm b c i := by
  cases h : c.getLsbD i <;> simp [gmulTerm, h, xtimePow_xor]

theorem xor_gmul (a b c : Byte) : gmul (a ^^^ b) c = gmul a c ^^^ gmul b c := by
  simp only [gmul, xor_gmulTerm]
  ac_rfl

@[simp] theorem zero_gmul (a : Byte) : gmul 0#8 a = 0#8 := by
  simpa using xor_gmul a a a

theorem gmul_one (a : Byte) : gmul a 1#8 = a := by simp [gmul, gmulTerm, xtimePow]

theorem gmul_two (a : Byte) : gmul a 2#8 = xtime a := by simp [gmul, gmulTerm, xtimePow]

theorem gmul_twoPow_comm : ∀ i < 8, ∀ j < 8,
    gmul (BitVec.twoPow 8 i) (BitVec.twoPow 8 j) = gmul (BitVec.twoPow 8 j) (BitVec.twoPow 8 i) := by
  decide +kernel

/-- A product of two sums of powers of two expands on both sides, and the powers of two commute. -/
theorem gmul_comm (a b : Byte) : gmul a b = gmul b a := by
  induction a using bitVec_xor_induction with
  | zero => simp
  | xor x y hx hy => rw [xor_gmul, gmul_xor, hx, hy]
  | bit i hi =>
    induction b using bitVec_xor_induction with
    | zero => simp
    | xor x y hx hy => rw [gmul_xor, xor_gmul, hx, hy]
    | bit j hj => exact gmul_twoPow_comm i hi j hj

/-- Settles O42: `gmul` is linear in both factors, so it commutes as the powers of two do, and a product by 1, 2 or 3 is read
off the bits of that factor. -/
theorem gmulIsAProduct : Obligations.GmulIsAProduct := by
  refine ⟨gmul_comm, gmul_xor, fun a => ⟨?_, ?_, ?_⟩, by decide, by decide⟩
  · rw [gmul_comm, gmul_one]
  · rw [gmul_comm, gmul_two]
  · rw [gmul_comm, show 3#8 = 2#8 ^^^ 1#8 from rfl, gmul_xor, gmul_two, gmul_one]

-- MixColumn and its inverse

theorem mixColumn_xor (u v : Word) : mixColumn (u ^^^ v) = mixColumn u ^^^ mixColumn v := by
  simp only [mixColumn, wordByte_xor, gmul_xor, beU32_xor]
  congr 1 <;> ac_rfl

theorem invMixColumn_mixColumn_twoPow : ∀ i < 32, invMixColumn (mixColumn (BitVec.twoPow 32 i)) = BitVec.twoPow 32 i := by
  decide +kernel

theorem invMixColumn_mixColumn (w : Word) : invMixColumn (mixColumn w) = w := by
  induction w using bitVec_xor_induction with
  | zero => decide
  | bit i hi => exact invMixColumn_mixColumn_twoPow i hi
  | xor u v hu hv => rw [mixColumn_xor, invMixColumn_xor, hu, hv]

/-- A left inverse on a finite type is a right inverse. -/
theorem mixColumn_invMixColumn (w : Word) : mixColumn (invMixColumn w) = w :=
  Function.LeftInverse.rightInverse_of_card_le invMixColumn_mixColumn le_rfl w

/-- Settles O45: both maps are linear, so one composition is the identity as it is on the one-bit words, and then the other
one is, the words being finite. -/
theorem invMixColumnInverts : Obligations.InvMixColumnInverts :=
  ⟨fun w => ⟨invMixColumn_mixColumn w, mixColumn_invMixColumn w⟩, by decide, by decide⟩

-- The S-boxes

/-- The affine map of `SBOX`'s generator (R85). -/
def affineMap (b : Byte) : Byte :=
  b ^^^ b.rotateLeft 1 ^^^ b.rotateLeft 2 ^^^ b.rotateLeft 3 ^^^ b.rotateLeft 4 ^^^ 0x63#8

/-- The byte that `affineMap` takes to `y`. -/
def affinePreimage (y : Byte) : Byte := y.rotateLeft 1 ^^^ y.rotateLeft 3 ^^^ y.rotateLeft 6 ^^^ 0x05#8

theorem affineMap_affinePreimage (y : Byte) : affineMap (affinePreimage y) = y := by revert y; decide +kernel

/-- `SBOX` without its affine map is the inverse in GF(2^8), with 0 for 0 (R85). -/
theorem affinePreimage_sbox (x : Byte) :
    (x = 0#8 ∧ affinePreimage (sbox x) = 0#8) ∨ gmul x (affinePreimage (sbox x)) = 1#8 := by
  revert x
  decide +kernel

/-- `SBOX` is a permutation of the bytes, so it undoes `SINV` as `SINV` undoes it (R86). -/
theorem sbox_sinv (b : Byte) : sbox (sinv b) = b :=
  Function.LeftInverse.rightInverse_of_card_le sinv_sbox le_rfl b

/-- Settles O43: the inverse of a byte is the preimage of its `SBOX` entry under the affine map. -/
theorem sboxIsAffineOfInverse : Obligations.SboxIsAffineOfInverse :=
  ⟨fun x => ⟨affinePreimage (sbox x), affinePreimage_sbox x, (affineMap_affinePreimage (sbox x)).symm⟩, sinv_sbox, sbox_sinv⟩

-- The T-tables

/-- Settles O44: a rotation of a table's entry rotates its four bytes, and `InvMixColumn` of one byte is its column of
coefficients (R89) in the place of that byte. -/
theorem tTableColumns : Obligations.TTableColumns := by
  refine ⟨fun b => ?_, fun b => ?_⟩
  · obtain ⟨h1, h2, h3⟩ := rotr32_beU32 (gmul 2#8 (sbox b)) (sbox b) (sbox b) (gmul 3#8 (sbox b))
    exact ⟨rfl, h1, h2, h3⟩
  · simp [d1, d2, d3, d0_eq_beU32, rotr32_beU32, invMixColumn_beU32]

/-- Settles O46: the tables' columns add up to the whole column's transform, and `SINV` inside the D tables cancels
`SBOX`. -/
theorem tTablesCollapseRound : Obligations.TTablesCollapseRound := by
  refine ⟨eTables_eq_mixColumn, fun a0 a1 a2 a3 => ?_⟩
  simp only [dTables_eq_invMixColumn, sinv_sbox]

end Sys2Proof.Machine
end

section
/-! The two key schedules and the inverse of the cipher under one key (spec/41_key_schedule.md R100 to R110,
spec/42_round_engine.md R122). -/

namespace Sys2Proof.Machine

open Sys2Proof.Safety

-- Words of a schedule RAM

theorem schedWord_set (w : Schedule) {i : Nat} (hi : i < 60) (v : Word) (j : Nat) :
    schedWord (w.set! i v) j = if j = i then v else schedWord w j := by
  by_cases hj : j < 60
  · simp [schedWord, Vector.getD, hj, Array.getElem_setIfInBounds, eq_comm]
  · rw [if_neg (by omega)]
    simp [schedWord, Vector.getD, hj]

theorem schedWord_of_ge (w : Schedule) {i : Nat} (hi : 60 ≤ i) : schedWord w i = 0#32 := by
  simp [schedWord, Vector.getD, hi]

-- The loop of KEY_EXPAND

/-- `RCON` before step `i`: it has stepped once at each multiple of `Nk` from `Nk` to `i - 1` (R102). -/
def stepRcon (nk i : Nat) : Byte := xtimePow ((i - 1) / nk) 1#8

/-- The word that step `i` of `KEY_EXPAND` writes to a schedule that holds the words before (R102). -/
def stepWord (key : List Byte) (nk i : Nat) (w : Schedule) : Word :=
  if i < nk then keyWord key i else schedWord w (i - nk) ^^^ expandTemp nk i (schedWord w (i - 1)) (stepRcon nk i)

theorem stepRcon_succ_of_lt {nk i : Nat} (h : i < nk) : stepRcon nk (i + 1) = stepRcon nk i := by
  simp [stepRcon, Nat.div_eq_of_lt h, Nat.div_eq_of_lt (show i - 1 < nk by omega)]

theorem stepRcon_succ_of_ge {nk i : Nat} (h0 : 0 < nk) (h : nk ≤ i) :
    stepRcon nk (i + 1) = expandRcon nk i (stepRcon nk i) := by
  obtain ⟨m, rfl⟩ : ∃ m, i = m + 1 := ⟨i - 1, by omega⟩
  simp only [stepRcon, expandRcon, Nat.add_sub_cancel, Nat.succ_div, Nat.dvd_iff_mod_eq_zero]
  split <;> rfl

/-- One step of the loop of `KEY_EXPAND` writes word `i`. -/
theorem keyExpandLoop_succ (key : List Byte) {nk : Nat} (h0 : 0 < nk) (left i : Nat) (w : Schedule) :
    keyExpandLoop key nk (left + 1) i w (stepRcon nk i) =
      keyExpandLoop key nk left (i + 1) (w.set! i (stepWord key nk i w)) (stepRcon nk (i + 1)) := by
  rw [keyExpandLoop, stepWord]
  split
  next h => rw [stepRcon_succ_of_lt h]
  next h => rw [stepRcon_succ_of_ge h0 (by omega)]

/-- The loop keeps the words outside the range it writes. -/
theorem schedWord_keyExpandLoop_outside (key : List Byte) {nk : Nat} (h0 : 0 < nk) {left i : Nat} (hi : i + left ≤ 60)
    (w : Schedule) {j : Nat} (hj : j < i ∨ i + left ≤ j) :
    schedWord (keyExpandLoop key nk left i w (stepRcon nk i)) j = schedWord w j := by
  induction left generalizing i w with
  | zero => rfl
  | succ left ih => rw [keyExpandLoop_succ key h0, ih (by omega) _ (by omega), schedWord_set w (by omega), if_neg (by omega)]

/-- Step `i` reads only words before word `i`. -/
theorem stepWord_congr (key : List Byte) {nk i : Nat} (h0 : 0 < nk) {w w' : Schedule}
    (h : ∀ j < i, schedWord w j = schedWord w' j) : stepWord key nk i w = stepWord key nk i w' := by
  rw [stepWord, stepWord]
  split
  · rfl
  · rw [h (i - nk) (by omega), h (i - 1) (by omega)]

/-- A word in the range the loop writes is the one its step makes of the finished schedule: no later step touches a word that
its step read or wrote. -/
theorem schedWord_keyExpandLoop_inside (key : List Byte) {nk : Nat} (h0 : 0 < nk) {left i : Nat} (hi : i + left ≤ 60)
    (w : Schedule) {j : Nat} (hij : i ≤ j) (hj : j < i + left) :
    schedWord (keyExpandLoop key nk left i w (stepRcon nk i)) j =
      stepWord key nk j (keyExpandLoop key nk left i w (stepRcon nk i)) := by
  induction left generalizing i w with
  | zero => omega
  | succ left ih =>
    obtain rfl | hlt := eq_or_lt_of_le hij
    · have before : ∀ k < i, schedWord w k = schedWord (keyExpandLoop key nk (left + 1) i w (stepRcon nk i)) k :=
        fun k hk => (schedWord_keyExpandLoop_outside key h0 hi w (.inl hk)).symm
      rw [← stepWord_congr key h0 before, keyExpandLoop_succ key h0,
        schedWord_keyExpandLoop_outside key h0 (by omega) _ (by omega), schedWord_set w (by omega), if_pos rfl]
    · rw [keyExpandLoop_succ key h0]
      exact ih (by omega) _ hlt (by omega)

-- The forward schedule

theorem keyExpand_eq_loop (key : List Byte) (nk : Nat) :
    keyExpand key nk = keyExpandLoop key nk (4 * (nk + 7)) 0 Schedule.zero (stepRcon nk 0) := by
  simp [keyExpand, stepRcon, xtimePow]

theorem schedWord_keyExpand (key : List Byte) {nk : Nat} (hnk : LegalNk nk) {i : Nat} (hi : i < 4 * (nk + 7)) :
    schedWord (keyExpand key nk) i = stepWord key nk i (keyExpand key nk) := by
  rw [keyExpand_eq_loop]
  exact schedWord_keyExpandLoop_inside key (by omega) (by omega) _ (Nat.zero_le i) (by omega)

theorem schedWord_keyExpand_key (key : List Byte) {nk : Nat} (hnk : LegalNk nk) {i : Nat} (hi : i < nk) :
    schedWord (keyExpand key nk) i = keyWord key i := by
  rw [schedWord_keyExpand key hnk (by omega), stepWord, if_pos hi]

theorem schedWord_keyExpand_tail (key : List Byte) {nk : Nat} (hnk : LegalNk nk) {i : Nat} (hi : 4 * (nk + 7) ≤ i) :
    schedWord (keyExpand key nk) i = 0#32 := by
  rw [keyExpand_eq_loop, schedWord_keyExpandLoop_outside key (by omega) (by omega) _ (by omega), schedWord_zero]

/-- The listed constants are the powers of x (R103). -/
theorem roundConstants_getD : ∀ k < 10, roundConstants.getD k 0#8 = xtimePow k 1#8 := by decide

/-- `RCON` at its uses: the first multiple of `Nk` uses the first constant (R103). -/
theorem stepRcon_of_mod_eq_zero {nk i : Nat} (hnk : LegalNk nk) (h : nk ≤ i) (hi : i < 4 * (nk + 7)) (hmod : i % nk = 0) :
    stepRcon nk i = roundConstants.getD (i / nk - 1) 0#8 := by
  have use : (i - 1) / nk = i / nk - 1 ∧ i / nk - 1 < 10 := by
    obtain rfl | rfl | rfl := hnk <;> omega
  obtain ⟨index, bound⟩ := use
  rw [stepRcon, index, roundConstants_getD _ bound]

/-- What a step adds, with the constant of its use and the extra `SubWord` of the 256-bit key alone (R102). -/
theorem expandTemp_stepRcon {nk i : Nat} (hnk : LegalNk nk) (h : nk ≤ i) (hi : i < 4 * (nk + 7)) (prev : Word) :
    expandTemp nk i prev (stepRcon nk i) =
      if i % nk = 0 then subWord (rotWord prev) ^^^ ((roundConstants.getD (i / nk - 1) 0#8).zeroExtend 32 <<< 24)
      else if nk = 8 ∧ i % 8 = 4 then subWord prev
      else prev := by
  have extra : 6 < nk ∧ i % nk = 4 ↔ nk = 8 ∧ i % 8 = 4 := by
    obtain rfl | rfl | rfl := hnk <;> simp
  simp only [expandTemp, extra]
  exact ite_congr rfl (fun hmod => by rw [stepRcon_of_mod_eq_zero hnk h hi hmod]) fun _ => rfl

/-- Settles O47: each word of the finished schedule is what its step makes of the words before. -/
theorem forwardScheduleRecurrence : Obligations.ForwardScheduleRecurrence := by
  intro key nk hnk
  refine ⟨fun i => schedWord_keyExpand_key key hnk, fun i h hi => ?_, fun i => schedWord_keyExpand_tail key hnk⟩
  rw [schedWord_keyExpand key hnk hi, stepWord, if_neg (by omega), expandTemp_stepRcon hnk h hi]

theorem bytesBe_keyWord_zero (a b c d : Byte) (key : List Byte) :
    bytesBe (keyWord (a :: b :: c :: d :: key) 0) = [a, b, c, d] := by
  obtain ⟨h0, h1, h2, h3⟩ := wordByte_beU32 a b c d
  simp [bytesBe, keyWord, h0, h1, h2, h3]

theorem keyWord_succ (a b c d : Byte) (key : List Byte) (i : Nat) :
    keyWord (a :: b :: c :: d :: key) (i + 1) = keyWord key i := rfl

/-- The words of a key spell the key. -/
theorem flatMap_bytesBe_keyWord (n : Nat) {key : List Byte} (h : key.length = 4 * n) :
    (List.range n).flatMap (fun i => bytesBe (keyWord key i)) = key := by
  induction n generalizing key with
  | zero => simpa using h
  | succ n ih =>
    match key, h with
    | a :: b :: c :: d :: key, h =>
      have rest : key.length = 4 * n := by simp at h; omega
      simp only [List.range_succ_eq_map, List.flatMap_cons, List.flatMap_map, bytesBe_keyWord_zero, keyWord_succ, ih rest]
      rfl

/-- Settles O48: the first words are the key's. -/
theorem scheduleBeginsWithKey : Obligations.ScheduleBeginsWithKey := by
  intro key nk hnk hlen
  calc (List.range nk).flatMap (fun i => bytesBe (schedWord (keyExpand key nk) i))
    _ = (List.range nk).flatMap (fun i => bytesBe (keyWord key i)) :=
        List.flatMap_congr fun i hi => by rw [schedWord_keyExpand_key key hnk (List.mem_range.mp hi)]
    _ = key := flatMap_bytesBe_keyWord nk hlen

-- The inverse schedule

/-- Settles O49: an inner word passes `SBOX` and the D tables, which together are InvMixColumn. -/
theorem inverseScheduleInnerRows : Obligations.InverseScheduleInnerRows :=
  fun fwd _ _ _ hnr h0 hr hj => schedWord_invExpand_inner fwd h0 hr hnr hj

theorem schedWord_invExpand_tail (w : Schedule) {nr i : Nat} (h0 : 0 < nr) (hi : 4 * (nr + 1) ≤ i) :
    schedWord (invExpand w nr) i = 0#32 := by
  by_cases h : i < 60
  · rw [schedWord_invExpand w nr h, invExpandWord, if_neg (by omega), if_neg (by omega)]
  · exact schedWord_of_ge _ (by omega)

/-- Settles O50: the first and the last row are the mirrored forward rows, and no later row is written. -/
theorem inverseScheduleOuterRows : Obligations.InverseScheduleOuterRows := by
  intro fwd nr j h0 hnr hj
  have first := schedWord_invExpand_outer fwd (nr := nr) (.inl rfl) hnr hj
  have last := schedWord_invExpand_outer fwd (nr := nr) (.inr rfl) hnr hj
  simp only [Nat.mul_zero, Nat.zero_add, Nat.sub_zero, Nat.sub_self] at first last
  exact ⟨first, last, fun i => schedWord_invExpand_tail fwd h0⟩

-- Both schedules of a context

/-- Settles O51: what `SET_KEY` installs is a function of the operand and its length alone. -/
theorem schedulesDependOnKeyOnly : Obligations.SchedulesDependOnKeyOnly := by
  intro s u hs hu liveS liveU lenS lenU same
  have len : s.len = u.len := by rw [← keyOperand_length s, ← keyOperand_length u, keyOperand, keyOperand, same]
  obtain ⟨t, execS, fwdT, invT, nrT, -⟩ := setKeyInstallsSchedules s hs liveS lenS
  obtain ⟨v, execU, fwdV, invV, nrV, -⟩ := setKeyInstallsSchedules u hu liveU lenU
  refine ⟨t, v, execS, execU, ?_, ?_, BitVec.eq_of_toNat_eq ?_⟩
  · rw [fwdT, fwdV, same, len]
  · rw [invT, invV, same, len]
  · rw [nrT, nrV, len]

-- The steps of a round undone

theorem addKey_addKey (s k : Cols) : addKey (addKey s k) k = s := by
  simp [addKey]

theorem invMixColumns_mixColumns (s : Cols) : invMixColumns (mixColumns s) = s := by
  simp only [invMixColumns, mixColumns, invMixColumn_mixColumn]

theorem invShiftRows_shiftRows (s : Cols) : invShiftRows (shiftRows s) = s := by
  simp [invShiftRows, shiftRows, colsOf, col, wordByte_beU32, beU32_wordByte]

theorem invSubBytes_subBytes (s : Cols) : invSubBytes (subBytes s) = s := by
  simp [invSubBytes, subBytes, subWord, colsOf, col, wordByte_beU32, beU32_wordByte, sinv_sbox]

/-- The last of `left + 1` rounds is the one under round key `r + left`. -/
theorem cipherRounds_succ_last (w : Schedule) (left r : Nat) (s : Cols) : cipherRounds w (left + 1) r s =
    addKey (mixColumns (shiftRows (subBytes (cipherRounds w left r s)))) (roundKey w (4 * (r + left))) := by
  induction left generalizing r s with
  | zero => rfl
  | succ left ih => rw [cipherRounds, ih, cipherRounds, Nat.add_right_comm, Nat.add_assoc]

/-- A round of the inverse cipher starts inside a round of the cipher, after its ShiftRows, so it undoes the AddRoundKey and
the MixColumns of the round before. -/
theorem invCipherRounds_cipherRounds (w : Schedule) (left : Nat) (s : Cols) :
    invCipherRounds w left (shiftRows (subBytes (cipherRounds w left 1 s))) = shiftRows (subBytes s) := by
  induction left with
  | zero => rfl
  | succ left ih =>
    rw [invCipherRounds, cipherRounds_succ_last, invShiftRows_shiftRows, invSubBytes_subBytes, Nat.add_comm 1 left,
      addKey_addKey, invMixColumns_mixColumns, ih]

theorem invCipher_cipher (w : Schedule) (nr : Nat) (x : Block) : invCipher w nr (cipher w nr x) = x := by
  rw [invCipher, cipher, colsOfBlock_blockOfCols, addKey_addKey, invCipherRounds_cipherRounds, invShiftRows_shiftRows,
    invSubBytes_subBytes, addKey_addKey, blockOfCols_colsOfBlock]

theorem ecbDec_ecbEnc (w : Schedule) {nr : Nat} (h0 : 0 < nr) (hnr : nr ≤ 14) (x : Block) :
    ecbDec (invExpand w nr) nr (ecbEnc w nr x) = x := by
  rw [ecbEnc_eq_cipher, ecbDec_invExpand_eq_invCipher w h0 hnr, invCipher_cipher]

/-- Decryption is a left inverse of encryption on the finite type of blocks, so it is a right inverse. -/
theorem ecbEnc_ecbDec (w : Schedule) {nr : Nat} (h0 : 0 < nr) (hnr : nr ≤ 14) (y : Block) :
    ecbEnc w nr (ecbDec (invExpand w nr) nr y) = y :=
  Function.LeftInverse.rightInverse_of_card_le (ecbDec_ecbEnc w h0 hnr) le_rfl y

/-- Settles O53: the two engines undo each other under every schedule, so under that of a legal key. -/
theorem decryptionInvertsEncryption : Obligations.DecryptionInvertsEncryption :=
  fun key nk x hnk _ => ⟨ecbDec_ecbEnc (keyExpand key nk) (by omega) (by omega) x,
    ecbEnc_ecbDec (keyExpand key nk) (by omega) (by omega) x⟩

end Sys2Proof.Machine
end

section
/-! The block counter of CTR as a number and byte by byte (spec/43_modes.md R135). -/

namespace Sys2Proof.Machine

theorem ctrInc_toNat (c : Block) : (ctrInc c).toNat = (c.toNat + 1) % 2 ^ 128 := by simp [ctrInc]

/-- Byte `i` of a block is digit `15 - i` of its number in base 256. -/
theorem blockByte_eq_ofNat (c : Block) {i : Nat} (hi : i < 16) :
    blockByte c i = BitVec.ofNat 8 (c.toNat / 256 ^ (15 - i)) := by
  rw [blockByte, BitVec.extractLsb', Nat.shiftRight_eq_div_pow, show 120 - 8 * i = 8 * (15 - i) by omega, Nat.pow_mul]

/-- The number after `n` ends in one zero digit more exactly when it ends in the zero digits so far and the next digit of `n`
is 0xFF. -/
theorem pow_succ_dvd_succ_iff (n k : Nat) :
    256 ^ (k + 1) ∣ n + 1 ↔ 256 ^ k ∣ n + 1 ∧ n / 256 ^ k % 256 = 255 := by
  by_cases low : 256 ^ k ∣ n + 1
  · have digit : 256 ∣ n / 256 ^ k + 1 ↔ n / 256 ^ k % 256 = 255 := by omega
    rw [pow_succ, ← Nat.dvd_div_iff_mul_dvd low, Nat.succ_div_of_dvd low, digit, and_iff_right low]
  · have high : ¬ 256 ^ (k + 1) ∣ n + 1 := mt (dvd_trans (pow_dvd_pow 256 k.le_succ)) low
    simp [low, high]

/-- The last `k` bytes of a counter are 0xFF exactly when its step clears them. -/
theorem trailing_bytes_eq_ff_iff (c : Block) {k : Nat} (hk : k ≤ 16) :
    (∀ j : Fin 16, 16 ≤ j.val + k → blockByte c j.val = 0xFF#8) ↔ 256 ^ k ∣ c.toNat + 1 := by
  induction k with
  | zero => simp
  | succ k ih =>
    have byte : blockByte c (15 - k) = 0xFF#8 ↔ c.toNat / 256 ^ k % 256 = 255 := by
      rw [blockByte_eq_ofNat c (by omega), show 15 - (15 - k) = k by omega, ← BitVec.toNat_inj, BitVec.toNat_ofNat]
      rfl
    rw [pow_succ_dvd_succ_iff, ← ih (by omega), ← byte]
    constructor
    · intro h
      exact ⟨fun j hj => h j (by omega), h ⟨15 - k, by omega⟩ (by simp; omega)⟩
    · rintro ⟨later, here⟩ j hj
      by_cases last : j.val = 15 - k
      · rw [last, here]
      · exact later j (by omega)

/-- A byte of the counter steps exactly when the bytes after it are cleared. -/
theorem blockByte_ctrInc (c : Block) {i : Nat} (hi : i < 16) :
    blockByte (ctrInc c) i = blockByte c i + if 256 ^ (15 - i) ∣ c.toNat + 1 then 1#8 else 0#8 := by
  have split : 2 ^ 128 = 256 ^ (15 - i) * 256 ^ (i + 1) := by
    rw [← Nat.pow_add, show 15 - i + (i + 1) = 16 by omega]
    rfl
  have digit : (ctrInc c).toNat / 256 ^ (15 - i) % 2 ^ 8 = (c.toNat + 1) / 256 ^ (15 - i) % 2 ^ 8 := by
    rw [ctrInc_toNat, split, Nat.mod_mul_right_div_self]
    exact Nat.mod_mod_of_dvd _ (Dvd.intro_left _ (Nat.pow_succ ..).symm)
  rw [blockByte_eq_ofNat _ hi, blockByte_eq_ofNat _ hi, ← BitVec.toNat_inj, BitVec.toNat_ofNat, digit, Nat.succ_div]
  by_cases cleared : 256 ^ (15 - i) ∣ c.toNat + 1
  · simp [cleared]
  · simp [cleared]

/-- Settles O57: a byte steps exactly when the step clears every byte after it, which it does when they are all 0xFF. -/
theorem counterIncrement : Obligations.CounterIncrement := by
  refine ⟨ctrInc_toNat, fun c i hi => ?_, by decide, by decide, by decide⟩
  have after (j : Nat) : i < j ↔ 16 ≤ j + (15 - i) := by omega
  simp only [after, trailing_bytes_eq_ff_iff c (show 15 - i ≤ 16 by omega)]
  exact blockByte_ctrInc c hi

end Sys2Proof.Machine
end

section
/-! What the three mode machines have in common: one loop over the span, given by what it writes over a block and by the
chaining value it hands on (spec/43_modes.md R131 to R134, R137). -/

namespace Sys2Proof.Machine

open Sys2Proof.Safety

/-- What a mode machine does with a block under a chaining value: the block it writes, and the next chaining value. -/
structure BlockRule where
  out : Block → Block → Block
  next : Block → Block → Block

/-- The loop of a block rule over `left` blocks from block `k`; it answers the span and the final chaining value. -/
def spanLoop (r : BlockRule) : (left k : Nat) → Memory → Block → Memory × Block
  | 0, _, m, v => (m, v)
  | left + 1, k, m, v =>
    spanLoop r left (k + 1) (spanWrite m k (r.out (spanRead m k) v)) (r.next (spanRead m k) v)

/-- The chaining value before block `n`, from the value `v` before the first of the blocks `p`. -/
def BlockRule.chain (r : BlockRule) (v : Block) (p : Nat → Block) : Nat → Block
  | 0 => v
  | n + 1 => r.next (p n) (r.chain v p n)

/-- The block that block `k` of the blocks `p` becomes. -/
def BlockRule.outBlock (r : BlockRule) (v : Block) (p : Nat → Block) (k : Nat) : Block := r.out (p k) (r.chain v p k)

theorem BlockRule.chain_congr (r : BlockRule) (v : Block) {p q : Nat → Block} {n : Nat} (h : ∀ j < n, p j = q j) :
    r.chain v p n = r.chain v q n := by
  induction n with
  | zero => rfl
  | succ n ih => rw [chain, chain, h n (by omega), ih fun j hj => h j (by omega)]

/-- The chain of a span goes on from the final chaining value of its first part. -/
theorem BlockRule.chain_add (r : BlockRule) (v : Block) (p : Nat → Block) (a b : Nat) :
    r.chain v p (a + b) = r.chain (r.chain v p a) (fun j => p (a + j)) b := by
  induction b with
  | zero => rfl
  | succ b ih => rw [← Nat.add_assoc, chain, chain, ih]

theorem BlockRule.outBlock_congr (r : BlockRule) (v : Block) {p q : Nat → Block} {k : Nat} (h : ∀ j ≤ k, p j = q j) :
    r.outBlock v p k = r.outBlock v q k := by
  rw [outBlock, outBlock, h k le_rfl, r.chain_congr v fun j hj => h j hj.le]

theorem BlockRule.outBlock_add (r : BlockRule) (v : Block) (p : Nat → Block) (a k : Nat) :
    r.outBlock v p (a + k) = r.outBlock (r.chain v p a) (fun j => p (a + j)) k := by
  rw [outBlock, outBlock, r.chain_add]

theorem wf_spanLoop (r : BlockRule) (left k : Nat) {m : Memory} (hm : Memory.wf m = true) (v : Block) :
    Memory.wf (spanLoop r left k m v).1 = true := by
  induction left generalizing k m v with
  | zero => exact hm
  | succ left ih => exact ih _ (wf_spanWrite hm _ _) _

section
variable (r : BlockRule) {m : Memory} (hm : Memory.wf m = true) (k : Nat) (x v : Block)
include hm

/-- A write to block `k` is not seen by the chain over the blocks after it. -/
theorem chain_after_spanWrite (n : Nat) :
    r.chain (r.next (spanRead m k) v) (fun j => spanRead (spanWrite m k x) (k + 1 + j)) n =
      r.chain v (fun j => spanRead m (k + j)) (n + 1) := by
  rw [Nat.add_comm n 1, r.chain_add]
  exact r.chain_congr _ fun j _ => by rw [spanRead_spanWrite_ne hm (by omega), Nat.add_assoc]

theorem spanLoop_chain (left : Nat) :
    (spanLoop r left k m v).2 = r.chain v (fun j => spanRead m (k + j)) left := by
  induction left generalizing k m v with
  | zero => rfl
  | succ left ih => rw [spanLoop, ih (wf_spanWrite hm _ _), chain_after_spanWrite r hm]

/-- The loop writes every block it runs over from the block as it was and from the chain over the blocks as they were, and
leaves the other blocks. -/
theorem spanRead_spanLoop (left j : Nat) : spanRead (spanLoop r left k m v).1 j =
    if k ≤ j ∧ j < k + left then r.outBlock v (fun n => spanRead m (k + n)) (j - k) else spanRead m j := by
  induction left generalizing k m v with
  | zero => rw [if_neg (by omega), spanLoop]
  | succ left ih =>
    rw [spanLoop, ih (wf_spanWrite hm _ _)]
    by_cases hjk : j = k
    · subst hjk
      rw [if_neg (by omega), if_pos (by omega), spanRead_spanWrite_same hm, Nat.sub_self]
      rfl
    · rw [spanRead_spanWrite_ne hm hjk]
      by_cases later : k + 1 ≤ j ∧ j < k + 1 + left
      · obtain ⟨n, rfl⟩ := Nat.exists_eq_add_of_le later.1
        rw [if_pos later, if_pos (by omega), BlockRule.outBlock, chain_after_spanWrite r hm,
          spanRead_spanWrite_ne hm (by omega), BlockRule.outBlock, Nat.add_sub_cancel_left,
          show k + 1 + n - k = n + 1 by omega, show k + (n + 1) = k + 1 + n by omega]
      · rw [if_neg later, if_neg (by omega)]

end

-- The three rules

/-- The block rule of `CBC_ENC` (R131). -/
def cbcEncRule (enc : Block → Block) : BlockRule := ⟨fun x v => enc (x ^^^ v), fun x v => enc (x ^^^ v)⟩

/-- The block rule of `CBC_DEC` (R132). -/
def cbcDecRule (dec : Block → Block) : BlockRule := ⟨fun y v => dec y ^^^ v, fun y _ => y⟩

/-- The block rule of `CTR` (R134). -/
def ctrRule (enc : Block → Block) : BlockRule := ⟨fun x v => x ^^^ enc v, fun _ v => ctrInc v⟩

theorem cbcEncLoop_eq_spanLoop (enc : Block → Block) (left k : Nat) (m : Memory) (v : Block) :
    cbcEncLoop enc left k m v = spanLoop (cbcEncRule enc) left k m v := by
  induction left generalizing k m v with
  | zero => rfl
  | succ left ih => exact ih ..

theorem cbcDecLoop_eq_spanLoop (dec : Block → Block) (left k : Nat) (m : Memory) (v : Block) :
    cbcDecLoop dec left k m v = spanLoop (cbcDecRule dec) left k m v := by
  induction left generalizing k m v with
  | zero => rfl
  | succ left ih => exact ih ..

theorem ctrLoop_eq_spanLoop (enc : Block → Block) (left k : Nat) (m : Memory) (v : Block) :
    ctrLoop enc ctrInc left k m v = spanLoop (ctrRule enc) left k m v := by
  induction left generalizing k m v with
  | zero => rfl
  | succ left ih => exact ih ..

/-- The block rule that the block command `i` runs in a context, whichever its path. -/
def blockRule (i : Instr) (s : State) : BlockRule :=
  match modeOf s.alg, i with
  | .ctr, _ => ctrRule (ecbEnc s.fwd s.nr.toNat)
  | .cbc, .decrypt => cbcDecRule (ecbDec s.inv s.nr.toNat)
  | .cbc, _ => cbcEncRule (ecbEnc s.fwd s.nr.toNat)

theorem blockRule_encrypt_of_cbc {s : State} (mode : modeOf s.alg = .cbc) :
    blockRule .encrypt s = cbcEncRule (ecbEnc s.fwd s.nr.toNat) := by simp [blockRule, mode]

theorem blockRule_decrypt_of_cbc {s : State} (mode : modeOf s.alg = .cbc) :
    blockRule .decrypt s = cbcDecRule (ecbDec s.inv s.nr.toNat) := by simp [blockRule, mode]

theorem blockRule_of_ctr (i : Instr) {s : State} (mode : modeOf s.alg = .ctr) :
    blockRule i s = ctrRule (ecbEnc s.fwd s.nr.toNat) := by simp [blockRule, mode]

/-- The rule is that of the algorithm, the schedules and the round count. -/
theorem blockRule_congr (i : Instr) {s t : State} (alg : t.alg = s.alg) (fwd : t.fwd = s.fwd) (inv : t.inv = s.inv)
    (nr : t.nr = s.nr) : blockRule i t = blockRule i s := by
  simp only [blockRule, alg, fwd, inv, nr]

-- The block commands

section
variable {i : Instr} (hi : i = .encrypt ∨ i = .decrypt)
include hi

/-- A block command that completes has run the loop of its rule over the span from the IV, and writes nothing else. -/
theorem commandDone_eq_spanLoop (s : State) : commandDone i s = complete (freeScratch s.freeCtr) true
    (writeSpan (spanLoop (blockRule i s) (spanBlocks s) 0 s.mem s.iv) s) := by
  cases mode : modeOf s.alg with
  | ctr =>
    have encrypt : commandDone .encrypt s = complete (freeScratch s.freeCtr) true (writeSpan
        (spanLoop (ctrRule (ecbEnc s.fwd s.nr.toNat)) (spanBlocks s) 0 s.mem s.iv) s) := by
      simp only [commandDone, encryptSpan, mode, ctrCrypt, blockEnc_eq_ecbEnc, pathCtrInc_eq_ctrInc, ctrLoop_eq_spanLoop]
    rw [blockRule_of_ctr i mode]
    obtain rfl | rfl := hi
    · exact encrypt
    · simpa only [commandDone, decryptSpan, encryptSpan, mode] using encrypt
  | cbc =>
    obtain rfl | rfl := hi
    · rw [blockRule_encrypt_of_cbc mode]
      simp only [commandDone, encryptSpan, mode, cbcEnc, blockEnc_eq_ecbEnc, cbcEncLoop_eq_spanLoop]
    · rw [blockRule_decrypt_of_cbc mode]
      simp only [commandDone, decryptSpan, mode, cbcDec, blockDec_eq_ecbDec, cbcDecLoop_eq_spanLoop]

/-- In a state that accepts block commands, both complete, in either mode. -/
theorem exec_block_done {s : State} (ready : BlockReady s) : exec i s = .next (commandDone i s) :=
  exec_done ready.1 ((commandCheck_block hi s).trans (checkBlock_of_blockReady ready))

theorem spanRead_commandDone {s : State} (wf : Memory.wf s.mem = true) (k : Nat) :
    spanRead (commandDone i s).mem k = if k < s.len / 16
      then (blockRule i s).outBlock s.iv (spanRead s.mem) k else spanRead s.mem k := by
  rw [commandDone_eq_spanLoop hi, complete_mem, writeSpan_mem, spanRead_spanLoop _ wf]
  simp [spanBlocks]

theorem iv_commandDone {s : State} (wf : Memory.wf s.mem = true) :
    (commandDone i s).iv = (blockRule i s).chain s.iv (spanRead s.mem) (s.len / 16) := by
  rw [commandDone_eq_spanLoop hi, complete_iv, writeSpan_iv, spanLoop_chain _ wf]
  simp [spanBlocks]

theorem wf_commandDone {s : State} (wf : Memory.wf s.mem = true) : Memory.wf (commandDone i s).mem = true := by
  rw [commandDone_eq_spanLoop hi]
  exact wf_spanLoop _ _ _ wf _

theorem len_commandDone (s : State) : (commandDone i s).len = s.len := by
  rw [commandDone_eq_spanLoop hi, complete_len, writeSpan_len]

theorem blockRule_commandDone (j : Instr) (s : State) : blockRule j (commandDone i s) = blockRule j s := by
  rw [commandDone_eq_spanLoop hi]
  exact blockRule_congr j rfl rfl rfl rfl

/-- What every completed block command leaves of the command index, the answer and the fault bits. -/
theorem frame_commandDone (s : State) : (commandDone i s).pc = s.pc + 1 ∧
    (commandDone i s).answer = some ⟨statusWord (commandDone i s), true⟩ ∧ SameFault s (commandDone i s) := by
  rw [commandDone_eq_spanLoop hi]
  exact ⟨rfl, complete_answer .., rfl, rfl⟩

end

end Sys2Proof.Machine
end

section
/-! CBC mode: chaining, unchaining, and the round trip (spec/43_modes.md R131 to R133, R137). -/

namespace Sys2Proof.Machine

open Sys2Proof.Safety

/-- `CBC_ENC` hands on the ciphertext block it writes. -/
theorem outBlock_cbcEncRule (enc : Block → Block) (v : Block) (p : Nat → Block) (k : Nat) :
    (cbcEncRule enc).outBlock v p k = cbcCipherBlock enc v p k := by
  induction k with
  | zero => rfl
  | succ k ih => rw [cbcCipherBlock, ← ih]; rfl

theorem chain_cbcEncRule (enc : Block → Block) (v : Block) (p : Nat → Block) (n : Nat) :
    (cbcEncRule enc).chain v p n = lastBlock v (cbcCipherBlock enc v p) n := by
  cases n with
  | zero => rfl
  | succ n => exact outBlock_cbcEncRule enc v p n

/-- `CBC_DEC` hands on the ciphertext block it has read. -/
theorem chain_cbcDecRule (dec : Block → Block) (v : Block) (p : Nat → Block) (n : Nat) :
    (cbcDecRule dec).chain v p n = previousBlock v p n := by
  cases n with
  | zero => rfl
  | succ n => rfl

/-- Settles O25: the loop writes the recurrence of R131, whose last block is the chaining value it ends with. -/
theorem encryptCbcChains : Obligations.EncryptCbcChains := by
  intro s ready mode buffer
  refine ⟨_, exec_block_done (.inl rfl) ready, fun k hk => ?_, ?_, frame_commandDone (.inl rfl) s⟩
  · rw [spanRead_commandDone (.inl rfl) buffer.1, if_pos hk, blockRule_encrypt_of_cbc mode, outBlock_cbcEncRule]
  · rw [iv_commandDone (.inl rfl) buffer.1, blockRule_encrypt_of_cbc mode, chain_cbcEncRule]

/-- Settles O26: the chain of `CBC_DEC` runs over the blocks as they were before the command. -/
theorem decryptCbcUnchains : Obligations.DecryptCbcUnchains := by
  intro s ready mode buffer
  refine ⟨_, exec_block_done (.inr rfl) ready, fun k hk => ?_, ?_, frame_commandDone (.inr rfl) s⟩
  · rw [spanRead_commandDone (.inr rfl) buffer.1, if_pos hk, blockRule_decrypt_of_cbc mode, BlockRule.outBlock,
      chain_cbcDecRule]
    rfl
  · rw [iv_commandDone (.inr rfl) buffer.1, blockRule_decrypt_of_cbc mode, chain_cbcDecRule, lastBlock]

-- The round trip

/-- `r'` undoes `r`: on a block that `r` has written it gives the block back and the same next chaining value. -/
structure BlockRule.Undoes (r' r : BlockRule) : Prop where
  out : ∀ x v, r'.out (r.out x v) v = x
  next : ∀ x v, r'.next (r.out x v) v = r.next x v

/-- A rule that undoes another runs through the same chaining values. -/
theorem BlockRule.Undoes.chain {r' r : BlockRule} (h : r'.Undoes r) (v : Block) (p : Nat → Block) (n : Nat) :
    r'.chain v (r.outBlock v p) n = r.chain v p n := by
  induction n with
  | zero => rfl
  | succ n ih => rw [BlockRule.chain, ih, BlockRule.chain, BlockRule.outBlock, h.next]

theorem BlockRule.Undoes.outBlock {r' r : BlockRule} (h : r'.Undoes r) (v : Block) (p : Nat → Block) (k : Nat) :
    r'.outBlock v (r.outBlock v p) k = p k := by
  rw [BlockRule.outBlock, h.chain, BlockRule.outBlock, h.out]

theorem cbcDecRule_undoes_cbcEncRule {enc dec : Block → Block} (h : Function.LeftInverse dec enc) :
    (cbcDecRule dec).Undoes (cbcEncRule enc) where
  out x v := by simp [cbcDecRule, cbcEncRule, h _]
  next _ _ := rfl

theorem cbcEncRule_undoes_cbcDecRule {enc dec : Block → Block} (h : Function.RightInverse dec enc) :
    (cbcEncRule enc).Undoes (cbcDecRule dec) where
  out y v := by simp [cbcEncRule, cbcDecRule, h _]
  next y v := by simp [cbcEncRule, cbcDecRule, h _]

section
variable {i j : Instr} (hi : i = .encrypt ∨ i = .decrypt) (hj : j = .encrypt ∨ j = .decrypt) {s : State}
include hi

theorem blockReady_after_installIv (ready : BlockReady s) : BlockReady (installIv s.iv (commandDone i s)) := by
  obtain ⟨faulted, live, keyed, -, span⟩ := ready
  rw [commandDone_eq_spanLoop hi]
  exact ⟨faulted, live, keyed, rfl, span⟩

include hj

/-- A block command whose rule undoes that of the command before it, run from the same IV, gives the span back. -/
theorem roundTrip_of_undoes (undoes : (blockRule j s).Undoes (blockRule i s)) (ready : BlockReady s)
    (wf : Memory.wf s.mem = true) :
    ∃ t u, exec i s = .next t ∧ exec j (installIv s.iv t) = .next u ∧ u.mem = s.mem := by
  have wf' : Memory.wf (installIv s.iv (commandDone i s)).mem = true := wf_commandDone hi wf
  refine ⟨_, _, exec_block_done hi ready, exec_block_done hj (blockReady_after_installIv hi ready),
    memory_ext_spanRead (wf_commandDone hj wf') wf fun k => ?_⟩
  have rule : blockRule j (installIv s.iv (commandDone i s)) = blockRule j s := blockRule_commandDone hi j s
  rw [spanRead_commandDone hj wf', rule, installIv_iv, installIv_mem, installIv_len, len_commandDone hi]
  by_cases hk : k < s.len / 16
  · have written : ∀ n ≤ k, spanRead (commandDone i s).mem n = (blockRule i s).outBlock s.iv (spanRead s.mem) n :=
      fun n hn => (spanRead_commandDone hi wf n).trans (if_pos (by omega))
    rw [if_pos hk, BlockRule.outBlock_congr _ _ written, undoes.outBlock]
  · rw [if_neg hk, spanRead_commandDone hi wf, if_neg hk]

end

/-- A keyed context's decryption and encryption of a block undo each other (R122). -/
theorem ecb_inverse_of_keyed {s : State} (h : KeyedInv s) (keyed : s.keyed = true) :
    Function.LeftInverse (ecbDec s.inv s.nr.toNat) (ecbEnc s.fwd s.nr.toNat) ∧
      Function.RightInverse (ecbDec s.inv s.nr.toNat) (ecbEnc s.fwd s.nr.toNat) := by
  obtain ⟨key, -, fwd, inv, nr⟩ := h keyed
  have bound : keyBytes s.alg / 4 + 6 ≤ 14 := by cases s.alg <;> decide
  rw [fwd, inv, nr, toNat_ofNat_rounds]
  exact ⟨ecbDec_ecbEnc _ (by omega) bound, ecbEnc_ecbDec _ (by omega) bound⟩

/-- Settles O58: each CBC rule undoes the other in a keyed context. -/
theorem cbcRoundTrip : Obligations.CbcRoundTrip := by
  intro s ready mode inv
  have ⟨_, _, keyed, _⟩ := ready
  obtain ⟨left, right⟩ := ecb_inverse_of_keyed inv.keyed keyed
  refine ⟨roundTrip_of_undoes (.inl rfl) (.inr rfl) ?_ ready inv.buffer.1,
    roundTrip_of_undoes (.inr rfl) (.inl rfl) ?_ ready inv.buffer.1⟩
  · rw [blockRule_encrypt_of_cbc mode, blockRule_decrypt_of_cbc mode]
    exact cbcDecRule_undoes_cbcEncRule left
  · rw [blockRule_encrypt_of_cbc mode, blockRule_decrypt_of_cbc mode]
    exact cbcEncRule_undoes_cbcDecRule right

end Sys2Proof.Machine
end

section
/-! Splitting: a span cut at a block boundary into two commands (spec/43_modes.md R137). -/

namespace Sys2Proof.Machine

open Sys2Proof.Safety

/-- The bytes of the first `n` of the blocks `p`. -/
def bytesOfBlocks (n : Nat) (p : Nat → Block) : List Byte := (List.range n).flatMap fun k => bytesOfBlock (p k)

theorem bytesOfBlocks_congr {n : Nat} {p q : Nat → Block} (h : ∀ k < n, p k = q k) :
    bytesOfBlocks n p = bytesOfBlocks n q :=
  List.flatMap_congr fun k hk => by rw [h k (List.mem_range.mp hk)]

theorem bytesOfBlocks_add (a b : Nat) (p : Nat → Block) :
    bytesOfBlocks (a + b) p = bytesOfBlocks a p ++ bytesOfBlocks b fun k => p (a + k) := by
  simp only [bytesOfBlocks, List.range_add, List.flatMap_append, List.flatMap_map]

theorem bytesOfBlock_spanRead (m : Memory) (k : Nat) : bytesOfBlock (spanRead m k) = Memory.readBytes m (16 * k) 16 :=
  List.map_congr_left fun i hi => blockByte_spanRead m k i (List.mem_range.mp hi)

/-- A buffer of whole blocks is the bytes of its blocks. -/
theorem readBytes_eq_bytesOfBlocks (m : Memory) (n : Nat) :
    Memory.readBytes m 0 (16 * n) = bytesOfBlocks n (spanRead m) := by
  induction n with
  | zero => rfl
  | succ n ih =>
    have last : bytesOfBlocks 1 (fun k => spanRead m (n + k)) = Memory.readBytes m (16 * n) 16 :=
      (List.append_nil _).trans (bytesOfBlock_spanRead m n)
    rw [bytesOfBlocks_add, ← ih, last]
    simp [Memory.readBytes, Nat.mul_succ, List.range_add, Function.comp_def]

-- The blocks of a cut span

/-- The blocks of the first part are those of the whole span. -/
theorem spanRead_ofBytes_append_left {p : List Byte} (q : List Byte) {k : Nat} (hk : 16 * k + 16 ≤ p.length) :
    spanRead (Memory.ofBytes (p ++ q)) k = spanRead (Memory.ofBytes p) k :=
  block_ext fun i hi => by
    rw [blockByte_spanRead _ _ _ hi, blockByte_spanRead _ _ _ hi, Memory.read_ofBytes, Memory.read_ofBytes,
      List.getD_append _ _ _ _ (by omega)]

/-- The blocks of the second part stand after those of a first part of whole blocks. -/
theorem spanRead_ofBytes_append_right {p : List Byte} (q : List Byte) {n : Nat} (hp : p.length = 16 * n) (k : Nat) :
    spanRead (Memory.ofBytes (p ++ q)) (n + k) = spanRead (Memory.ofBytes q) k :=
  block_ext fun i hi => by
    rw [blockByte_spanRead _ _ _ hi, blockByte_spanRead _ _ _ hi, Memory.read_ofBytes, Memory.read_ofBytes,
      List.getD_append_right _ _ _ _ (by omega), show 16 * (n + k) + i - p.length = 16 * k + i by omega]

-- The commands

theorem withBuffer_len (bs : List Byte) (s : State) : (withBuffer bs s).len = bs.length := rfl

/-- A shorter span of whole blocks is accepted too, where the empty one is. -/
theorem blockReady_withBuffer {bs bs' : List Byte} {s : State} (ready : BlockReady (withBuffer bs s))
    (shorter : bs'.length ≤ bs.length) (whole : bs'.length % 16 = 0) (zero : bs' = [] → s.cfg.zeroLen = .noop) :
    BlockReady (withBuffer bs' s) := by
  obtain ⟨faulted, live, keyed, ivValid, -, bound, -⟩ := ready
  exact ⟨faulted, live, keyed, ivValid, whole, shorter.trans bound, fun h => zero (List.length_eq_zero_iff.mp h)⟩

section
variable {i : Instr} (hi : i = .encrypt ∨ i = .decrypt)
include hi

theorem bufferBytes_commandDone_withBuffer (s : State) {bs : List Byte} {n : Nat} (hbs : bs.length = 16 * n) :
    bufferBytes (commandDone i (withBuffer bs s)) =
      bytesOfBlocks n ((blockRule i s).outBlock s.iv (spanRead (Memory.ofBytes bs))) := by
  rw [bufferBytes, len_commandDone hi, withBuffer_len, hbs, readBytes_eq_bytesOfBlocks]
  refine bytesOfBlocks_congr fun k hk => ?_
  rw [spanRead_commandDone hi (Memory.wf_ofBytes bs), if_pos (by rw [withBuffer_len]; omega)]
  rfl

theorem iv_commandDone_withBuffer (s : State) {bs : List Byte} {n : Nat} (hbs : bs.length = 16 * n) :
    (commandDone i (withBuffer bs s)).iv = (blockRule i s).chain s.iv (spanRead (Memory.ofBytes bs)) n := by
  rw [iv_commandDone hi (Memory.wf_ofBytes bs), withBuffer_len, hbs, Nat.mul_div_cancel_left n (by decide)]
  rfl

/-- A completed block command leaves the context ready for the next span. -/
theorem blockReady_withBuffer_commandDone {s : State} {bs : List Byte} (bs' : List Byte)
    (ready : BlockReady (withBuffer bs s)) : BlockReady (withBuffer bs (commandDone i (withBuffer bs' s))) := by
  rw [commandDone_eq_spanLoop hi]
  exact ready

end

/-- Settles O60: the second command's loop goes on where the first one's ended, over the same blocks. -/
theorem splittingInvariance : Obligations.SplittingInvariance := by
  intro i s p q hi ready hp hq zero
  have readyP : BlockReady (withBuffer p s) := blockReady_withBuffer ready (by simp) hp fun h => zero (.inl h)
  have readyQ : BlockReady (withBuffer q s) := blockReady_withBuffer ready (by simp) hq fun h => zero (.inr h)
  refine ⟨_, _, _, exec_block_done hi ready, exec_block_done hi readyP,
    exec_block_done hi (blockReady_withBuffer_commandDone hi p readyQ), ?_⟩
  obtain ⟨a, ha⟩ := Nat.dvd_of_mod_eq_zero hp
  obtain ⟨b, hb⟩ := Nat.dvd_of_mod_eq_zero hq
  have whole : (p ++ q).length = 16 * (a + b) := by rw [List.length_append, ha, hb, Nat.mul_add]
  have first : ∀ k < a, spanRead (Memory.ofBytes (p ++ q)) k = spanRead (Memory.ofBytes p) k :=
    fun k hk => spanRead_ofBytes_append_left q (by omega)
  have second : (fun k => spanRead (Memory.ofBytes (p ++ q)) (a + k)) = spanRead (Memory.ofBytes q) :=
    funext (spanRead_ofBytes_append_right q ha)
  have rule : blockRule i (commandDone i (withBuffer p s)) = blockRule i s := blockRule_commandDone hi i _
  have mid : (commandDone i (withBuffer p s)).iv = (blockRule i s).chain s.iv (spanRead (Memory.ofBytes (p ++ q))) a :=
    (iv_commandDone_withBuffer hi s ha).trans (BlockRule.chain_congr _ _ fun k hk => (first k hk).symm)
  constructor
  · rw [bufferBytes_commandDone_withBuffer hi _ whole, bufferBytes_commandDone_withBuffer hi _ ha,
      bufferBytes_commandDone_withBuffer hi _ hb, rule, mid, bytesOfBlocks_add]
    refine congrArg₂ (· ++ ·) ?_ ?_
    · exact bytesOfBlocks_congr fun k hk => BlockRule.outBlock_congr _ _ fun j hj => first j (by omega)
    · simp only [BlockRule.outBlock_add, second]
  · rw [iv_commandDone_withBuffer hi _ whole, iv_commandDone_withBuffer hi _ hb, rule, mid, BlockRule.chain_add, second]

end Sys2Proof.Machine
end

section
/-! The hardware path's functions are the portable ones, and the key-assist primitive makes the steps of the forward schedule
(spec/44_hardware_path.md R148 to R155). -/

namespace Sys2Proof.Machine

/-- Settles O55: each function of the hardware path is the portable one, whatever the schedule holds. -/
theorem hardwareFunctionsArePortable : Obligations.HardwareFunctionsArePortable :=
  ⟨fun w nr x => ⟨hwEcbEnc_eq_ecbEnc w nr x, hwEcbDec_eq_ecbDec w nr x⟩, hwInvExpand_eq_invExpand, hwCtrInc_eq_ctrInc⟩

-- The key-assist primitive

theorem rotWord_beU32 (b0 b1 b2 b3 : Byte) : rotWord (beU32 b0 b1 b2 b3) = beU32 b1 b2 b3 b0 := by
  have right : rotWord (beU32 b0 b1 b2 b3) = rotr32 (beU32 b0 b1 b2 b3) 24 := BitVec.or_comm _ _
  rw [right, (rotr32_beU32 b0 b1 b2 b3).2.2]

theorem subWord_beU32 (b0 b1 b2 b3 : Byte) :
    subWord (beU32 b0 b1 b2 b3) = beU32 (sbox b0) (sbox b1) (sbox b2) (sbox b3) := by
  obtain ⟨h0, h1, h2, h3⟩ := wordByte_beU32 b0 b1 b2 b3
  rw [subWord, h0, h1, h2, h3]

/-- The primitive substitutes before it rotates and R102 after, which is the same: `SubWord` works byte by byte. -/
theorem rotWord_subWord (t : Word) : rotWord (subWord t) = subWord (rotWord t) := by
  rw [← beU32_wordByte t, subWord_beU32, rotWord_beU32, rotWord_beU32, subWord_beU32]

/-- An odd column of the primitive is what R102 adds after the word in that column (R149). -/
theorem blockWord_aesKeyGenAssist_odd (x : Block) (imm : Byte) {j : Nat} (hj : j = 1 ∨ j = 3) :
    blockWord (aesKeyGenAssist x imm) j = subWord (rotWord (blockWord x j)) ^^^ (imm.zeroExtend 32 <<< 24) := by
  rw [aesKeyGenAssist, blockWord_blockOfCols _ (by omega), ← rotWord_subWord]
  obtain rfl | rfl := hj <;> rfl

/-- Column 2 of the primitive does not read the constant (R149). -/
theorem blockWord_aesKeyGenAssist_two (x : Block) (imm : Byte) :
    blockWord (aesKeyGenAssist x imm) 2 = subWord (blockWord x 3) := by
  rw [aesKeyGenAssist, blockWord_blockOfCols _ (by decide)]
  rfl

/-- A word stands in row `i / 4` of the schedule at place `i % 4` (R150). -/
theorem blockWord_schedRow_div_mod (w : Schedule) (i : Nat) : blockWord (schedRow w (i / 4)) (i % 4) = schedWord w i := by
  rw [blockWord_schedRow w _ (Nat.mod_lt _ (by decide)), Nat.div_add_mod]

/-- Settles O56: `Nk` is even, so the word before a use stands in an odd column, and before the extra `SubWord` step in
column 3. -/
theorem keyAssistGivesSchedule : Obligations.KeyAssistGivesSchedule := by
  intro key nk i imm hnk h hi
  obtain ⟨-, recurrence, -⟩ := forwardScheduleRecurrence key nk hnk
  refine ⟨fun use => ?_, fun hnk8 extra => ?_⟩
  · have odd : (i - 1) % 4 = 1 ∨ (i - 1) % 4 = 3 := by
      obtain rfl | rfl | rfl := hnk <;> omega
    rw [blockWord_aesKeyGenAssist_odd _ _ odd, blockWord_schedRow_div_mod, recurrence i h hi, if_pos use]
  · subst hnk8
    have place : (i - 1) % 4 = 3 := by omega
    rw [blockWord_aesKeyGenAssist_two, ← place, blockWord_schedRow_div_mod, recurrence i h hi, if_neg (by omega),
      if_pos ⟨rfl, extra⟩]

end Sys2Proof.Machine
end

section
/-! Which fault a command takes: the order of its checks, and what a fault leaves (spec/45_commands.md R160 to R166, R168,
spec/60_exceptions.md R180 to R183). -/

namespace Sys2Proof.Machine

open Sys2Proof.Safety

-- The frame of a command

/-- A faulted core ignores the command (R168). -/
theorem exec_ignored {s : State} (hf : s.faulted = true) (i : Instr) : exec i s = .next (ignoreCommand s) := by
  rw [exec_eq_guarded, guarded_faulted hf]

/-- Settles O8: the ignored command sets the answer only, which STATUS does not show. -/
theorem faultedCoreIgnoresCommands : Obligations.FaultedCoreIgnoresCommands :=
  ⟨fun i _ hf => ⟨_, exec_ignored hf i, rfl, rfl⟩, fun _ hf hr => step_eq_noFurtherStep hr hf⟩

/-- The first failing check of a command alone decides the cause it leaves (R180, R182). -/
theorem exec_faultCause {i : Instr} {s t : State} (hf : s.faulted = false) (he : exec i s = .next t) :
    t.faultCause = (commandCheck i s).getD s.faultCause := by
  obtain ⟨hf', -⟩ | ⟨-, c, hc, rfl⟩ | ⟨-, hc, rfl⟩ := exec_cases he
  · simp [hf] at hf'
  · simp [hc]
  · simp [hc]

/-- A command with a failing check shows that check's fault in the state it leaves. -/
theorem exec_shows_fault {i : Instr} {s t : State} {c : Cause} (hf : s.faulted = false) (he : exec i s = .next t)
    (hc : commandCheck i s = some c) : t.faulted = true ∧ t.faultCause = c := by
  simp [exec_faulted_iff hf he, exec_faultCause hf he, hc]

-- NEW

/-- The checks of `NEW` in order, with `c` where none fails. -/
theorem checkNew_getD (code : BitVec 3) (s : State) (c : Cause) : (checkNew code s).getD c =
    if code = 7#3 then .illegalCommand else if s.ctxLive then .contextLive
    else if s.len ≠ 0 then .badOperandLength else c := by
  simp only [checkNew, algOfCode_eq_none, apply_ite (Option.getD · c), Option.getD_some, Option.getD_none]

/-- Some check of `NEW` fails exactly on the reserved code, a live context or an operand (R161). -/
theorem checkNew_ne_none (code : BitVec 3) (s : State) :
    checkNew code s ≠ none ↔ code = 7#3 ∨ s.ctxLive = true ∨ s.len ≠ 0 := by
  rw [Ne, checkNew_eq_none, not_and_or, not_and_or, not_not, Bool.not_eq_false]

/-- Settles O19: the cause is that of the first failing check, and a fault is taken exactly when some check fails. -/
theorem newFaultsInOrder : Obligations.NewFaultsInOrder := fun s _ code hf he =>
  ⟨(exec_faultCause hf he).trans (checkNew_getD code s _), (exec_faulted_iff hf he).trans (checkNew_ne_none code s)⟩

-- ENCRYPT and DECRYPT

theorem checkBlock_of_unkeyed {s : State} (live : s.ctxLive = true) (unkeyed : s.keyed = false) :
    checkBlock s = some .notKeyed := by
  simp [checkBlock, live, unkeyed]

theorem checkBlock_of_ivUnset {s : State} (live : s.ctxLive = true) (keyed : s.keyed = true) (noIv : s.ivValid = false) :
    checkBlock s = some .ivNotSet := by
  simp [checkBlock, live, keyed, noIv]

/-- Settles O28: the flags decide the first checks and the span the last, and a ready context passes them all. -/
theorem blockFaultsInOrder : Obligations.BlockFaultsInOrder := by
  intro i s t hi hf live he
  have check := commandCheck_block hi s
  refine ⟨fun unkeyed => ?_, fun keyed noIv => ?_, fun keyed ivValid span => ?_, fun ready => ?_⟩
  · exact exec_shows_fault hf he (check.trans (checkBlock_of_unkeyed live unkeyed))
  · exact exec_shows_fault hf he (check.trans (checkBlock_of_ivUnset live keyed noIv))
  · have bad : badSpan s.cfg s.len = true := (badSpan_eq_true _ _).mpr span
    exact exec_shows_fault hf he (check.trans (checkBlock_of_badSpan live keyed ivValid bad))
  · have passes : commandCheck i s = none := check.trans (checkBlock_of_blockReady ready)
    rw [← Bool.not_eq_true, exec_faulted_iff hf he, not_not, passes]

-- The commands that need a context

/-- Without a context the first check of every command but `NEW` fails (R160). -/
theorem commandCheck_of_noContext {i : Instr} {s : State} (dead : s.ctxLive = false)
    (hi : i = .setKey ∨ i = .setIv ∨ i = .encrypt ∨ i = .decrypt ∨ i = .free) : commandCheck i s = some .noContext := by
  obtain rfl | rfl | rfl | rfl | rfl := hi
  · simp [commandCheck, checkSetKey, dead]
  · simp [commandCheck, checkSetIv, dead]
  · simp [commandCheck, checkBlock, dead]
  · simp [commandCheck, checkBlock, dead]
  · simp [commandCheck, checkFree, dead]

/-- Settles O15: the check for a context comes first, and a fault leaves the command index. -/
theorem noContextFaults : Obligations.NoContextFaults := fun _ _ hf dead hi =>
  ⟨_, exec_raise hf (commandCheck_of_noContext dead hi), rfl, rfl, rfl⟩

-- Operand lengths

theorem checkSetKey_of_badLength {s : State} (live : s.ctxLive = true) (hlen : s.len ≠ keyBytes s.alg) :
    checkSetKey s = some .badKeyLength := by
  simp [checkSetKey, live, hlen]

theorem checkSetIv_of_badLength {s : State} (live : s.ctxLive = true) (hlen : s.len ≠ 16) :
    checkSetIv s = some .badIvLength := by
  simp [checkSetIv, live, hlen]

theorem checkFree_of_operand {s : State} (live : s.ctxLive = true) (hlen : s.len ≠ 0) :
    checkFree s = some .badOperandLength := by
  simp [checkFree, live, hlen]

/-- Settles O22: the length check comes after the one for a context, and a fault leaves the schedules. -/
theorem setKeyChecksLength : Obligations.SetKeyChecksLength := fun _ hf live hlen =>
  ⟨_, exec_raise hf (checkSetKey_of_badLength live hlen), rfl, rfl, rfl, rfl, rfl, rfl⟩

/-- Settles O24: the length check comes after the one for a context, and a fault leaves the IV. -/
theorem setIvChecksLength : Obligations.SetIvChecksLength := fun _ hf live hlen =>
  ⟨_, exec_raise hf (checkSetIv_of_badLength live hlen), rfl, rfl, rfl, rfl⟩

/-- Settles O31: a fault writes the fault fields and the answer, so setting the three back gives the state before. -/
theorem freeChecksLength : Obligations.FreeChecksLength := fun s hf live hlen =>
  ⟨_, exec_raise hf (checkFree_of_operand live hlen), rfl, rfl, raiseFault_answer s _, rfl⟩

end Sys2Proof.Machine
end

section
/-! Precise faults, the waiting core, and the build without hardware (spec/60_exceptions.md R180, R183, R184, R189, R195). -/

namespace Sys2Proof.Machine

/-- A command that leaves a fault took it from one of its failing checks, and did nothing else (R180, R184). -/
theorem exec_raised {i : Instr} {s t : State} (hf : s.faulted = false) (he : exec i s = .next t)
    (ht : t.faulted = true) : ∃ c, commandCheck i s = some c ∧ t = raiseFault c s := by
  obtain ⟨hf', -⟩ | ⟨-, raised⟩ | ⟨-, -, rfl⟩ := exec_cases he
  · simp [hf] at hf'
  · exact raised
  · simp [hf] at ht

/-- Settles O32: the fault is that of a failing check, no check raises NONE, and `raiseFault` writes three fields. -/
theorem faultsArePrecise : Obligations.FaultsArePrecise := by
  intro i s t hf he ht
  obtain ⟨c, hc, rfl⟩ := exec_raised hf he ht
  have cause : c ≠ .none := fun e => commandCheck_ne_noCause i s (e ▸ hc)
  exact ⟨cause, raiseFault_answer s c, rfl⟩

/-- The host has no command to issue once the index has passed the program (R14). -/
theorem nextCommand_eq_none {s : State} (h : s.prog.length ≤ s.pc) : nextCommand s = none :=
  List.getElem?_eq_none h

/-- Settles O10: past the end of the program no command is next, so the step is a wait. -/
theorem coreWaitsForCommand : Obligations.CoreWaitsForCommand := fun _ hr hf h =>
  step_eq_wait hr hf (nextCommand_eq_none h)

/-- Without the hardware the portable path is selected (R19). -/
theorem selectImpl_of_unavailable {p : Params} (h : p.hwAvailable = false) : selectImpl p = .portable := by
  simp [selectImpl_eq_ite, h]

/-- Settles O20: no check of `NEW` reads the build, and the path it selects is the portable one. -/
theorem unavailableHardwareIsNoError : Obligations.UnavailableHardwareIsNoError := by
  intro s code hw hf hcode hlive hlen
  have check : commandCheck (.new code) s = none := (checkNew_eq_none code s).mpr ⟨hcode, hlive, hlen⟩
  have impl : (commandDone (.new code) s).impl = .portable := selectImpl_of_unavailable hw
  exact ⟨_, exec_done hf check, by rw [commandDone_faulted, hf], impl, congrArg implBit impl⟩

end Sys2Proof.Machine
end
